-- ==== Sys2Proof/Word.lean ====
section
/-! DEFINITION. The widths of 00_scope.md R9 and 30_encoding.md R101: words and the fields of a command word. -/

namespace Sys2Proof

/-- A 32-bit word: a data register, a bus word, a command word, or the bits of a binary32 value (R9, R30). -/
abbrev Word := BitVec 32

/-- A data-register number, the 4-bit fields rd, ra, rb and rc (R103). -/
abbrev Reg := BitVec 4

/-- An instance number, the 4-bit field inst (R103). -/
abbrev InstNo := BitVec 4

/-- A parameter or state-register index, the 6-bit field idx (R103). -/
abbrev Idx := BitVec 6

/-- The 16-bit immediate of format I (R104). -/
abbrev Imm16 := BitVec 16

end Sys2Proof
end

