-- ==== Sys2Proof/Config.lean ====
section
/-! DEFINITION. What the spec leaves to the implementation (00_scope.md R8): instance counts, buffer capacities and the
transcendental functions. -/

namespace Sys2Proof

/-- The implementation parameters of R8. `N_DL` and `N_GP` are the lengths of the capacity lists. -/
structure Config where
  nBq : Nat
  nLp : Nat
  nHp : Nat
  nSc : Nat
  /-- `DL_CAP[i]`, one entry for each DL instance. -/
  dlCap : List Nat
  nDc : Nat
  nLi : Nat
  nDs : Nat
  nXo : Nat
  nMd : Nat
  nNco : Nat
  nZc : Nat
  nEnv : Nat
  /-- `GP_CAP[i]`, one entry for each GP instance. -/
  gpCap : List Nat
deriving DecidableEq, Repr

/-- R8: an instance count is an integer 1..16. -/
abbrev Config.countOk (n : Nat) : Prop := 1 ≤ n ∧ n ≤ 16

/-- R8: the values this spec admits for the implementation parameters. -/
abbrev Config.Admitted (c : Config) : Prop :=
  Config.countOk c.nBq ∧ Config.countOk c.nLp ∧ Config.countOk c.nHp ∧ Config.countOk c.nSc ∧
  Config.countOk c.dlCap.length ∧ Config.countOk c.nDc ∧ Config.countOk c.nLi ∧ Config.countOk c.nDs ∧
  Config.countOk c.nXo ∧ Config.countOk c.nMd ∧ Config.countOk c.nNco ∧ Config.countOk c.nZc ∧
  Config.countOk c.nEnv ∧ Config.countOk c.gpCap.length ∧
  (∀ n ∈ c.dlCap, 2 ≤ n ∧ n ≤ 2 ^ 24) ∧ (∀ n ∈ c.gpCap, 4 ≤ n ∧ n ≤ 2 ^ 24)

/-- The default configuration of 95_test_vectors.md: two instances of every unit, `DL_CAP[i] = 8`, `GP_CAP[i] = 16`.
DESIGN CHOICE (log 5): `State.reset` is the power-on state of this configuration; the spec leaves the values OPEN. -/
def Config.default : Config where
  nBq := 2
  nLp := 2
  nHp := 2
  nSc := 2
  dlCap := [8, 8]
  nDc := 2
  nLi := 2
  nDs := 2
  nXo := 2
  nMd := 2
  nNco := 2
  nZc := 2
  nEnv := 2
  gpCap := [16, 16]

/-- Free function behind EXP (R8, R20; log 6): nothing constrains it. `Machine/Transcendental.lean` keeps what is read
from it inside the properties of R20. -/
opaque Config.rawExp : Word → Word

/-- Free function behind ATAN (R8, R20; log 6). -/
opaque Config.rawAtan : Word → Word

/-- Free function behind TANH (R8, R20; log 6). -/
opaque Config.rawTanh : Word → Word

/-- Free function behind SIN2PI (R8, R20; log 6). -/
opaque Config.rawSin2pi : Word → Word

/-- Free function behind COS2PI (R8, R20; log 6). -/
opaque Config.rawCos2pi : Word → Word

end Sys2Proof
end

