-- ==== Sys2Proof/Syntax.lean ====
section
/-! DEFINITION. The commands of 30_encoding.md R106: one constructor for each row of the opcode table. -/

namespace Sys2Proof

/-- The values of the `unit` field (00_scope.md R4). -/
inductive UnitName where
  | global | bq | lp | hp | sc | dl | dc | li | ds | xo | md | nco | zc | env | gp
  /-- The selector "every unit", for RST only. -/
  | all
deriving DecidableEq, Repr

/-- The causes of a rejection (60_exceptions.md R321). -/
inductive Cause where
  | illegalOpcode | reservedField | badUnit | badInstance | badIndex | badPair
deriving DecidableEq, Repr

/-- A command, its fields as R106 lists them. Must-be-zero fields and `mode` are not operands. -/
inductive Instr where
  /-- R140 -/
  | nop
  /-- R141 -/
  | rst (unit : UnitName) (inst : InstNo)
  /-- R142 -/
  | setp (ra : Reg) (unit : UnitName) (inst : InstNo) (idx : Idx)
  /-- R143 -/
  | getp (rd : Reg) (unit : UnitName) (inst : InstNo) (idx : Idx)
  /-- R144 -/
  | gets (rd : Reg) (unit : UnitName) (inst : InstNo) (idx : Idx)
  /-- R145 -/
  | coef (ra : Reg) (unit : UnitName) (inst : InstNo)
  /-- R161 -/
  | ldhi (rd : Reg) (imm : Imm16)
  /-- R162 -/
  | orlo (rd : Reg) (imm : Imm16)
  /-- R163 -/
  | mov (rd ra : Reg)
  /-- R164 -/
  | fadd (rd ra rb : Reg)
  /-- R165 -/
  | fsub (rd ra rb : Reg)
  /-- R166 -/
  | fmul (rd ra rb : Reg)
  /-- R167 -/
  | clamp (rd ra rb rc : Reg)
  /-- R168 -/
  | lerp (rd ra rb rc : Reg)
  /-- R169 -/
  | satAtan (rd ra rb : Reg)
  /-- R170 -/
  | satTanh (rd ra rb : Reg)
  /-- R171 -/
  | sin2pi (rd ra : Reg)
  /-- R172 -/
  | cos2pi (rd ra : Reg)
  /-- R173 -/
  | cvtifSym (rd ra : Reg)
  /-- R174 -/
  | cvtifAsym (rd ra : Reg)
  /-- R175 -/
  | cvtfiSym (rd ra : Reg)
  /-- R176 -/
  | cvtfiAsym (rd ra : Reg)
  /-- R196 -/
  | bqStep (rd ra : Reg) (inst : InstNo)
  /-- R191 -/
  | lpStep (rd ra : Reg) (inst : InstNo)
  /-- R192 -/
  | hpStep (rd ra : Reg) (inst : InstNo)
  /-- R195 -/
  | scStep (rd ra : Reg) (inst : InstNo)
  /-- R221 -/
  | dlWr (ra : Reg) (inst : InstNo)
  /-- R222 -/
  | dlRd (rd ra : Reg) (inst : InstNo)
  /-- R193 -/
  | dcStep (rd ra : Reg) (inst : InstNo)
  /-- R194 -/
  | liStep (rd ra rb : Reg) (inst : InstNo)
  /-- R241 -/
  | dsStep (rd ra : Reg) (inst : InstNo)
  /-- R242 -/
  | xoStep (rd ra : Reg) (inst : InstNo)
  /-- R243 -/
  | mdStep (rd ra : Reg) (inst : InstNo)
  /-- R244 -/
  | ncoStep (rd ra : Reg) (inst : InstNo)
  /-- R272 -/
  | zcStep (rd ra rb : Reg) (inst : InstNo)
  /-- R271 -/
  | envStep (rd ra : Reg) (inst : InstNo)
  /-- R301 -/
  | gpStep (rd ra : Reg) (inst : InstNo)
deriving DecidableEq, Repr

end Sys2Proof
end

