-- ==== Sys2Proof/Machine/Tables.lean ====
section
/-! DEFINITION. The parameter and state tables of 10_state.md R44 to R73: names, order and range classes. -/

namespace Sys2Proof.Machine

/-- The legal-range classes of R40. -/
inductive ParamClass where
  | fin | nneg | unit | coef | fsr | rdc | dly
  /-- integer, `[0.0, f32(N_DL - 1)]` -/
  | idxdl
  /-- integer, `[0.0, 16777216.0]` -/
  | hang
  /-- `[2.0, f32(GP_CAP[i] - 2)]`, of instance i -/
  | glen
deriving DecidableEq, Repr

/-- R42: the classes whose parameters are stored as whole numbers. -/
def ParamClass.isInteger : ParamClass → Bool
  | .idxdl => true
  | .hang => true
  | .fin => false
  | .nneg => false
  | .unit => false
  | .coef => false
  | .fsr => false
  | .rdc => false
  | .dly => false
  | .glen => false

/-- The parameters of each unit, in the order of idx, with their range classes (R44 to R58). -/
def paramTable : UnitName → List (String × ParamClass)
  | .global => [("fs", .fsr)]
  | .bq => [("b0", .fin), ("b1", .fin), ("b2", .fin), ("a1", .fin), ("a2", .fin)]
  | .lp => [("a", .coef)]
  | .hp => [("a", .coef)]
  | .sc => [("drive", .nneg), ("mix", .unit)]
  | .dl => []
  | .dc => [("R", .rdc)]
  | .li => []
  | .ds => [("gain", .nneg), ("k", .nneg), ("a", .coef)]
  | .xo => [("a", .coef)]
  | .md => [("base", .dly), ("swing", .nneg), ("am", .unit), ("off", .fin), ("dlsel", .idxdl)]
  | .nco => [("c", .unit)]
  | .zc => [("th_on", .nneg), ("th_off", .nneg), ("hang_len", .hang), ("hyst", .nneg), ("f_min", .nneg),
            ("f_max", .nneg), ("fold_tol", .unit), ("max_jump", .nneg), ("smooth", .unit), ("f_idle", .nneg),
            ("drift", .unit)]
  | .env => [("att", .unit), ("rel", .unit)]
  | .gp => [("ratio", .nneg), ("glen", .glen)]
  | .all => []

/-- The state registers of each unit, in the order of idx (R61 to R73). -/
def stateTable : UnitName → List String
  | .global => []
  | .bq => ["x1", "x2", "y1", "y2"]
  | .lp => ["y"]
  | .hp => ["lp"]
  | .sc => []
  | .dl => ["w"]
  | .dc => ["x1", "y1"]
  | .li => ["prev"]
  | .ds => ["lp"]
  | .xo => ["lp"]
  | .md => []
  | .nco => ["f", "ph"]
  | .zc => ["cnt", "pos", "f", "locked", "hang"]
  | .env => ["e"]
  | .gp => ["w", "p0", "p1", "p2", "p3"]
  | .all => []

/-- The unit's parameter count (R39, R105). -/
def paramCount (u : UnitName) : Nat := (paramTable u).length

/-- The unit's state-register count (R105, R144). -/
def stateCount (u : UnitName) : Nat := (stateTable u).length

/-- R106, column unit: the units COEF may name. -/
def coefUnit : UnitName → Bool
  | .lp => true
  | .hp => true
  | .ds => true
  | .xo => true
  | .global => false
  | .bq => false
  | .sc => false
  | .dl => false
  | .dc => false
  | .li => false
  | .md => false
  | .nco => false
  | .zc => false
  | .env => false
  | .gp => false
  | .all => false

/-- R105 check 4: GLOBAL and the ALL selector have one instance whatever the configuration. -/
def isSingleton : UnitName → Bool
  | .global => true
  | .all => true
  | .bq => false
  | .lp => false
  | .hp => false
  | .sc => false
  | .dl => false
  | .dc => false
  | .li => false
  | .ds => false
  | .xo => false
  | .md => false
  | .nco => false
  | .zc => false
  | .env => false
  | .gp => false

end Sys2Proof.Machine
end

