-- ==== Sys2Proof/WellFormed.lean ====
section
/-! DEFINITION. The checks of 30_encoding.md R105 that the command word alone decides (checks 3, 5 and 6, and check 4 for
GLOBAL and ALL). A command that fails one still decodes; executing it rejects it by its cause (R322). -/

namespace Sys2Proof

open Sys2Proof.Machine

/-- R105 check 4 for the units whose instance count is fixed: instance 0 only. -/
abbrev singletonInstOk (u : UnitName) (inst : InstNo) : Bool := !isSingleton u || inst.toNat == 0

/-- The command passes every check of R105 that does not depend on the configuration. -/
def Instr.wellFormed : Instr → Bool
  | .nop => true
  | .rst u i => singletonInstOk u i
  | .setp _ u i idx => u != .all && singletonInstOk u i && decide (idx.toNat < paramCount u)
  | .getp _ u i idx => u != .all && singletonInstOk u i && decide (idx.toNat < paramCount u)
  | .gets _ u i idx => u != .all && singletonInstOk u i && decide (idx.toNat < stateCount u)
  | .coef _ u _ => coefUnit u
  | .ldhi _ _ => true
  | .orlo _ _ => true
  | .mov _ _ => true
  | .fadd _ _ _ => true
  | .fsub _ _ _ => true
  | .fmul _ _ _ => true
  | .clamp _ _ _ _ => true
  | .lerp _ _ _ _ => true
  | .satAtan _ _ _ => true
  | .satTanh _ _ _ => true
  | .sin2pi _ _ => true
  | .cos2pi _ _ => true
  | .cvtifSym _ _ => true
  | .cvtifAsym _ _ => true
  | .cvtfiSym _ _ => true
  | .cvtfiAsym _ _ => true
  | .bqStep _ _ _ => true
  | .lpStep _ _ _ => true
  | .hpStep _ _ _ => true
  | .scStep _ _ _ => true
  | .dlWr _ _ => true
  | .dlRd _ _ _ => true
  | .dcStep _ _ _ => true
  | .liStep _ _ _ _ => true
  | .dsStep _ _ _ => true
  | .xoStep rd _ _ => rd.toNat % 2 == 0
  | .mdStep _ _ _ => true
  | .ncoStep _ _ _ => true
  | .zcStep _ _ _ _ => true
  | .envStep _ _ _ => true
  | .gpStep _ _ _ => true

end Sys2Proof
end

