-- ==== Sys2Proof/Decode.lean ====
section
/-! DEFINITION. The command encoding (30_encoding.md R100 to R110): the table of R106, the decoder with the first two
checks of R105, and the encoder of R107. The decoder is written from the match and mask
columns of R106, the encoder from the formats of R101 and the opcode map of R102. -/

namespace Sys2Proof

/-- One row of the table of R106. A word w is this command when `w &&& mask = pattern`. -/
structure Row where
  mnemonic : String
  pattern : Word
  mask : Word
deriving DecidableEq, Repr

/-! The rows of R106. -/

def rowNop : Row := ⟨"nop", 0x00000000, 0xFFFFFFFF⟩
def rowRst : Row := ⟨"rst", 0x04000000, 0xFFFC03FF⟩
def rowSetp : Row := ⟨"setp", 0x08000000, 0xFFC0000F⟩
def rowGetp : Row := ⟨"getp", 0x0C000000, 0xFC3C000F⟩
def rowGets : Row := ⟨"gets", 0x10000000, 0xFC3C000F⟩
def rowCoef : Row := ⟨"coef", 0x14000000, 0xFFC003FF⟩
def rowLdhi : Row := ⟨"ldhi", 0x18000000, 0xFC3F0000⟩
def rowOrlo : Row := ⟨"orlo", 0x1C000000, 0xFC3F0000⟩
def rowMov : Row := ⟨"mov", 0x20000000, 0xFC03FFFF⟩
def rowFadd : Row := ⟨"fadd", 0x24000000, 0xFC003FFF⟩
def rowFsub : Row := ⟨"fsub", 0x28000000, 0xFC003FFF⟩
def rowFmul : Row := ⟨"fmul", 0x2C000000, 0xFC003FFF⟩
def rowClamp : Row := ⟨"clamp", 0x30000000, 0xFC0003FF⟩
def rowLerp : Row := ⟨"lerp", 0x34000000, 0xFC0003FF⟩
def rowSatAtan : Row := ⟨"sat.atan", 0x38000000, 0xFC003FFF⟩
def rowSatTanh : Row := ⟨"sat.tanh", 0x38000001, 0xFC003FFF⟩
def rowSin2pi : Row := ⟨"sin2pi", 0x3C000000, 0xFC03FFFF⟩
def rowCos2pi : Row := ⟨"cos2pi", 0x3C000001, 0xFC03FFFF⟩
def rowCvtifSym : Row := ⟨"cvtif.sym", 0x40000000, 0xFC03FFFF⟩
def rowCvtifAsym : Row := ⟨"cvtif.asym", 0x40000001, 0xFC03FFFF⟩
def rowCvtfiSym : Row := ⟨"cvtfi.sym", 0x44000000, 0xFC03FFFF⟩
def rowCvtfiAsym : Row := ⟨"cvtfi.asym", 0x44000001, 0xFC03FFFF⟩
def rowBqStep : Row := ⟨"bq.step", 0x80000000, 0xFC03C3FF⟩
def rowLpStep : Row := ⟨"lp.step", 0x84000000, 0xFC03C3FF⟩
def rowHpStep : Row := ⟨"hp.step", 0x88000000, 0xFC03C3FF⟩
def rowScStep : Row := ⟨"sc.step", 0x8C000000, 0xFC03C3FF⟩
def rowDlWr : Row := ⟨"dl.wr", 0x90000000, 0xFFC3C3FF⟩
def rowDlRd : Row := ⟨"dl.rd", 0x94000000, 0xFC03C3FF⟩
def rowDcStep : Row := ⟨"dc.step", 0x98000000, 0xFC03C3FF⟩
def rowLiStep : Row := ⟨"li.step", 0x9C000000, 0xFC0003FF⟩
def rowDsStep : Row := ⟨"ds.step", 0xA0000000, 0xFC03C3FF⟩
def rowXoStep : Row := ⟨"xo.step", 0xA4000000, 0xFC03C3FF⟩
def rowMdStep : Row := ⟨"md.step", 0xA8000000, 0xFC03C3FF⟩
def rowNcoStep : Row := ⟨"nco.step", 0xAC000000, 0xFC03C3FF⟩
def rowZcStep : Row := ⟨"zc.step", 0xB0000000, 0xFC0003FF⟩
def rowEnvStep : Row := ⟨"env.step", 0xB4000000, 0xFC03C3FF⟩
def rowGpStep : Row := ⟨"gp.step", 0xB8000000, 0xFC03C3FF⟩

/-- The complete table (R106). -/
def opcodeTable : List Row :=
  [rowNop, rowRst, rowSetp, rowGetp, rowGets, rowCoef, rowLdhi, rowOrlo] ++
  [rowMov, rowFadd, rowFsub, rowFmul, rowClamp, rowLerp, rowSatAtan, rowSatTanh] ++
  [rowSin2pi, rowCos2pi, rowCvtifSym, rowCvtifAsym, rowCvtfiSym, rowCvtfiAsym, rowBqStep, rowLpStep] ++
  [rowHpStep, rowScStep, rowDlWr, rowDlRd, rowDcStep, rowLiStep, rowDsStep, rowXoStep] ++
  [rowMdStep, rowNcoStep, rowZcStep, rowEnvStep, rowGpStep]

/-- The row of R106 a command belongs to. -/
def Instr.row : Instr → Row
  | .nop => rowNop
  | .rst _ _ => rowRst
  | .setp _ _ _ _ => rowSetp
  | .getp _ _ _ _ => rowGetp
  | .gets _ _ _ _ => rowGets
  | .coef _ _ _ => rowCoef
  | .ldhi _ _ => rowLdhi
  | .orlo _ _ => rowOrlo
  | .mov _ _ => rowMov
  | .fadd _ _ _ => rowFadd
  | .fsub _ _ _ => rowFsub
  | .fmul _ _ _ => rowFmul
  | .clamp _ _ _ _ => rowClamp
  | .lerp _ _ _ _ => rowLerp
  | .satAtan _ _ _ => rowSatAtan
  | .satTanh _ _ _ => rowSatTanh
  | .sin2pi _ _ => rowSin2pi
  | .cos2pi _ _ => rowCos2pi
  | .cvtifSym _ _ => rowCvtifSym
  | .cvtifAsym _ _ => rowCvtifAsym
  | .cvtfiSym _ _ => rowCvtfiSym
  | .cvtfiAsym _ _ => rowCvtfiAsym
  | .bqStep _ _ _ => rowBqStep
  | .lpStep _ _ _ => rowLpStep
  | .hpStep _ _ _ => rowHpStep
  | .scStep _ _ _ => rowScStep
  | .dlWr _ _ => rowDlWr
  | .dlRd _ _ _ => rowDlRd
  | .dcStep _ _ _ => rowDcStep
  | .liStep _ _ _ _ => rowLiStep
  | .dsStep _ _ _ => rowDsStep
  | .xoStep _ _ _ => rowXoStep
  | .mdStep _ _ _ => rowMdStep
  | .ncoStep _ _ _ => rowNcoStep
  | .zcStep _ _ _ _ => rowZcStep
  | .envStep _ _ _ => rowEnvStep
  | .gpStep _ _ _ => rowGpStep

/-! The fields of R101. -/

def opField (w : Word) : BitVec 6 := w.extractLsb' 26 6
def rdField (w : Word) : Reg := w.extractLsb' 22 4
def raField (w : Word) : Reg := w.extractLsb' 18 4
def rbField (w : Word) : Reg := w.extractLsb' 14 4
def rcField (w : Word) : Reg := w.extractLsb' 10 4
def instField (w : Word) : InstNo := w.extractLsb' 10 4
def idxField (w : Word) : Idx := w.extractLsb' 4 6
def immField (w : Word) : Imm16 := w.extractLsb' 0 16

/-- The unit a `unit` field names (00_scope.md R4). -/
def unitOfNumber (n : BitVec 4) : UnitName :=
  match n.toNat with
  | 0 => .global
  | 1 => .bq
  | 2 => .lp
  | 3 => .hp
  | 4 => .sc
  | 5 => .dl
  | 6 => .dc
  | 7 => .li
  | 8 => .ds
  | 9 => .xo
  | 10 => .md
  | 11 => .nco
  | 12 => .zc
  | 13 => .env
  | 14 => .gp
  | _ => .all

/-- The number of a unit (00_scope.md R4). -/
def unitNumber : UnitName → BitVec 4
  | .global => 0
  | .bq => 1
  | .lp => 2
  | .hp => 3
  | .sc => 4
  | .dl => 5
  | .dc => 6
  | .li => 7
  | .ds => 8
  | .xo => 9
  | .md => 10
  | .nco => 11
  | .zc => 12
  | .env => 13
  | .gp => 14
  | .all => 15

def unitField (w : Word) : UnitName := unitOfNumber (w.extractLsb' 14 4)

/-- R102: opcodes 0x12..0x1F and 0x2F..0x3F are reserved. -/
def opReserved (op : BitVec 6) : Bool :=
  (0x12 ≤ op.toNat && op.toNat ≤ 0x1F) || 0x2F ≤ op.toNat

/-- R105 check 2 for an opcode with one row. -/
def accept (w : Word) (r : Row) (i : Instr) : Except Cause Instr :=
  if w &&& r.mask = r.pattern then .ok i else .error .reservedField

/-- R105 check 2 for an opcode with two rows (two legal values of `mode`). -/
def acceptEither (w : Word) (r₀ : Row) (i₀ : Instr) (r₁ : Row) (i₁ : Instr) : Except Cause Instr :=
  if w &&& r₀.mask = r₀.pattern then .ok i₀ else accept w r₁ i₁

/-- R105 checks 1 and 2: the command a word is, or the cause that rejects it. The remaining checks need the unit and the
configuration and are made by the command's meaning. -/
def decode (w : Word) : Except Cause Instr :=
  match (opField w).toNat with
  | 0x00 => accept w rowNop .nop
  | 0x01 => accept w rowRst (.rst (unitField w) (instField w))
  | 0x02 => accept w rowSetp (.setp (raField w) (unitField w) (instField w) (idxField w))
  | 0x03 => accept w rowGetp (.getp (rdField w) (unitField w) (instField w) (idxField w))
  | 0x04 => accept w rowGets (.gets (rdField w) (unitField w) (instField w) (idxField w))
  | 0x05 => accept w rowCoef (.coef (raField w) (unitField w) (instField w))
  | 0x06 => accept w rowLdhi (.ldhi (rdField w) (immField w))
  | 0x07 => accept w rowOrlo (.orlo (rdField w) (immField w))
  | 0x08 => accept w rowMov (.mov (rdField w) (raField w))
  | 0x09 => accept w rowFadd (.fadd (rdField w) (raField w) (rbField w))
  | 0x0A => accept w rowFsub (.fsub (rdField w) (raField w) (rbField w))
  | 0x0B => accept w rowFmul (.fmul (rdField w) (raField w) (rbField w))
  | 0x0C => accept w rowClamp (.clamp (rdField w) (raField w) (rbField w) (rcField w))
  | 0x0D => accept w rowLerp (.lerp (rdField w) (raField w) (rbField w) (rcField w))
  | 0x0E => acceptEither w rowSatAtan (.satAtan (rdField w) (raField w) (rbField w)) rowSatTanh (.satTanh (rdField w) (raField w) (rbField w))
  | 0x0F => acceptEither w rowSin2pi (.sin2pi (rdField w) (raField w)) rowCos2pi (.cos2pi (rdField w) (raField w))
  | 0x10 => acceptEither w rowCvtifSym (.cvtifSym (rdField w) (raField w)) rowCvtifAsym (.cvtifAsym (rdField w) (raField w))
  | 0x11 => acceptEither w rowCvtfiSym (.cvtfiSym (rdField w) (raField w)) rowCvtfiAsym (.cvtfiAsym (rdField w) (raField w))
  | 0x20 => accept w rowBqStep (.bqStep (rdField w) (raField w) (instField w))
  | 0x21 => accept w rowLpStep (.lpStep (rdField w) (raField w) (instField w))
  | 0x22 => accept w rowHpStep (.hpStep (rdField w) (raField w) (instField w))
  | 0x23 => accept w rowScStep (.scStep (rdField w) (raField w) (instField w))
  | 0x24 => accept w rowDlWr (.dlWr (raField w) (instField w))
  | 0x25 => accept w rowDlRd (.dlRd (rdField w) (raField w) (instField w))
  | 0x26 => accept w rowDcStep (.dcStep (rdField w) (raField w) (instField w))
  | 0x27 => accept w rowLiStep (.liStep (rdField w) (raField w) (rbField w) (instField w))
  | 0x28 => accept w rowDsStep (.dsStep (rdField w) (raField w) (instField w))
  | 0x29 => accept w rowXoStep (.xoStep (rdField w) (raField w) (instField w))
  | 0x2A => accept w rowMdStep (.mdStep (rdField w) (raField w) (instField w))
  | 0x2B => accept w rowNcoStep (.ncoStep (rdField w) (raField w) (instField w))
  | 0x2C => accept w rowZcStep (.zcStep (rdField w) (raField w) (rbField w) (instField w))
  | 0x2D => accept w rowEnvStep (.envStep (rdField w) (raField w) (instField w))
  | 0x2E => accept w rowGpStep (.gpStep (rdField w) (raField w) (instField w))
  | _ => .error .illegalOpcode

/-- Formats N, P, R and X (R101, R107), every field at its position: rb shares its place with unit and rc with inst. -/
def fields (op : BitVec 6) (rd ra rb rc : BitVec 4) (idx : BitVec 6) (mode : BitVec 4) : Word :=
  op ++ rd ++ ra ++ rb ++ rc ++ idx ++ mode

/-- Format I (R101, R107). -/
def fieldsImm (op : BitVec 6) (rd : BitVec 4) (imm : Imm16) : Word :=
  op ++ rd ++ (0 : BitVec 6) ++ imm

/-- The command word of a command (R101, R102, R107). -/
def encode : Instr → Word
  | .nop => fields 0x00 0 0 0 0 0 0
  | .rst u i => fields 0x01 0 0 (unitNumber u) i 0 0
  | .setp ra u i x => fields 0x02 0 ra (unitNumber u) i x 0
  | .getp rd u i x => fields 0x03 rd 0 (unitNumber u) i x 0
  | .gets rd u i x => fields 0x04 rd 0 (unitNumber u) i x 0
  | .coef ra u i => fields 0x05 0 ra (unitNumber u) i 0 0
  | .ldhi rd imm => fieldsImm 0x06 rd imm
  | .orlo rd imm => fieldsImm 0x07 rd imm
  | .mov rd ra => fields 0x08 rd ra 0 0 0 0
  | .fadd rd ra rb => fields 0x09 rd ra rb 0 0 0
  | .fsub rd ra rb => fields 0x0A rd ra rb 0 0 0
  | .fmul rd ra rb => fields 0x0B rd ra rb 0 0 0
  | .clamp rd ra rb rc => fields 0x0C rd ra rb rc 0 0
  | .lerp rd ra rb rc => fields 0x0D rd ra rb rc 0 0
  | .satAtan rd ra rb => fields 0x0E rd ra rb 0 0 0
  | .satTanh rd ra rb => fields 0x0E rd ra rb 0 0 1
  | .sin2pi rd ra => fields 0x0F rd ra 0 0 0 0
  | .cos2pi rd ra => fields 0x0F rd ra 0 0 0 1
  | .cvtifSym rd ra => fields 0x10 rd ra 0 0 0 0
  | .cvtifAsym rd ra => fields 0x10 rd ra 0 0 0 1
  | .cvtfiSym rd ra => fields 0x11 rd ra 0 0 0 0
  | .cvtfiAsym rd ra => fields 0x11 rd ra 0 0 0 1
  | .bqStep rd ra i => fields 0x20 rd ra 0 i 0 0
  | .lpStep rd ra i => fields 0x21 rd ra 0 i 0 0
  | .hpStep rd ra i => fields 0x22 rd ra 0 i 0 0
  | .scStep rd ra i => fields 0x23 rd ra 0 i 0 0
  | .dlWr ra i => fields 0x24 0 ra 0 i 0 0
  | .dlRd rd ra i => fields 0x25 rd ra 0 i 0 0
  | .dcStep rd ra i => fields 0x26 rd ra 0 i 0 0
  | .liStep rd ra rb i => fields 0x27 rd ra rb i 0 0
  | .dsStep rd ra i => fields 0x28 rd ra 0 i 0 0
  | .xoStep rd ra i => fields 0x29 rd ra 0 i 0 0
  | .mdStep rd ra i => fields 0x2A rd ra 0 i 0 0
  | .ncoStep rd ra i => fields 0x2B rd ra 0 i 0 0
  | .zcStep rd ra rb i => fields 0x2C rd ra rb i 0 0
  | .envStep rd ra i => fields 0x2D rd ra 0 i 0 0
  | .gpStep rd ra i => fields 0x2E rd ra 0 i 0 0

/-- The instruction the decoder reads from a table row's word: a command is one 32-bit word (R100), and any bit above
`nbits` is 0. -/
def decodeTableWord (nbits w : Nat) : Option Instr :=
  match decode (BitVec.ofNat 32 (w % 2 ^ nbits)) with
  | .ok i => some i
  | .error _ => none

end Sys2Proof
end

