-- ==== Sys2Proof/Machine/Float32.lean ====
section
/-! DEFINITION. IEEE 754 binary32 arithmetic on words (00_scope.md R14 to R19, R21; 41_scalar.md R178): exact integer
arithmetic in units of 2^-149, then one rounding to nearest, ties to even. -/

namespace Sys2Proof.Machine.F32

/-! ## Constants of R9 and the specials -/

/-- QNAN, the canonical quiet NaN (R9, R19). -/
def qnan : Word := 0x7FC00000
def zero : Word := 0x00000000
def negZero : Word := 0x80000000
def half : Word := 0x3F000000
def one : Word := 0x3F800000
def negOne : Word := 0xBF800000
def two : Word := 0x40000000
def inf : Word := 0x7F800000
/-- MAXF, the largest finite binary32 (R9). -/
def maxF : Word := 0x7F7FFFFF

/-! ## The fields of a word (10_state.md R30) -/

/-- Bit 31. -/
def sign (x : Word) : Bool := x.msb

/-- Bits 30:0, exponent and fraction: the order of the magnitudes. -/
def magBits (x : Word) : Nat := x.toNat % 2 ^ 31

/-- Bits 30:23. -/
def expo (x : Word) : Nat := magBits x / 2 ^ 23

/-- The magnitude bits of an infinity. -/
def infBits : Nat := 0x7F800000

def isNaN (x : Word) : Bool := decide (infBits < magBits x)
def isInf (x : Word) : Bool := decide (magBits x = infBits)
def isFinite (x : Word) : Bool := decide (magBits x < infBits)
def isZero (x : Word) : Bool := decide (magBits x = 0)

/-- The word with a given sign and given bits 30:0. -/
def pack (neg : Bool) (m : Nat) : Word := BitVec.ofNat 32 ((if neg then 2 ^ 31 else 0) + m)

/-- The magnitude that bits 30:0 stand for, in units of 2^-149: subnormal or normal. -/
def magUnits (m : Nat) : Nat :=
  if m / 2 ^ 23 = 0 then m % 2 ^ 23 else (2 ^ 23 + m % 2 ^ 23) * 2 ^ (m / 2 ^ 23 - 1)

/-- The magnitude of a finite value, in units of 2^-149. -/
def units (x : Word) : Nat := magUnits (magBits x)

/-- The value of a finite word, in units of 2^-149. -/
def signedUnits (x : Word) : Int := if sign x then -(units x : Int) else (units x : Int)

/-- R19: every NaN an operation produces is QNAN. -/
def canon (x : Word) : Word := if isNaN x then qnan else x

/-! ## Rounding (R14) -/

/-- The bits 30:0 of the binary32 magnitude nearest to `n / d` units of 2^-149, ties to even; overflow gives infinity.
The significand keeps 24 bits: with `q = n / d`, the last place is `2 ^ k`, `k = log2 q - 23` (0 for subnormals). -/
def roundMag (n d : Nat) : Nat :=
  let k := Nat.log2 (n / d) - 23
  let place := d * 2 ^ k
  let m := n / place
  let r := n % place
  let up := if place < 2 * r ∨ (2 * r = place ∧ m % 2 = 1) then 1 else 0
  min (k * 2 ^ 23 + (m + up)) infBits

/-- The binary32 nearest to `± n / d` units of 2^-149. -/
def round (neg : Bool) (n d : Nat) : Word := pack neg (roundMag n d)

/-! ## Operations (R14): one rounding each -/

/-- Negation: exact, only the sign bit changes (R14); a NaN stays canonical (R19, log 9). -/
def neg (x : Word) : Word := if isNaN x then qnan else x ^^^ 0x80000000

/-- Absolute value (R14, log 9). -/
def abs (x : Word) : Word := if isNaN x then qnan else x &&& 0x7FFFFFFF

def add (x y : Word) : Word :=
  if isNaN x || isNaN y then qnan
  else if isInf x then (if isInf y && sign x != sign y then qnan else x)
  else if isInf y then y
  else
    let u := signedUnits x + signedUnits y
    if u = 0 then (if sign x && sign y then negZero else zero)
    else round (decide (u < 0)) u.natAbs 1

def sub (x y : Word) : Word := add x (neg y)

def mul (x y : Word) : Word :=
  if isNaN x || isNaN y then qnan
  else if isInf x || isInf y then (if isZero x || isZero y then qnan else pack (sign x != sign y) infBits)
  else round (sign x != sign y) (units x * units y) (2 ^ 149)

def div (x y : Word) : Word :=
  if isNaN x || isNaN y then qnan
  else if isInf x then (if isInf y then qnan else pack (sign x != sign y) infBits)
  else if isInf y then pack (sign x != sign y) 0
  else if isZero y then (if isZero x then qnan else pack (sign x != sign y) infBits)
  else round (sign x != sign y) (units x * 2 ^ 149) (units y)

/-! ## Comparisons (R15): false when either operand is a NaN; the zeros are equal -/

/-- The order of the non-NaN words: sign and magnitude. -/
def key (x : Word) : Int := if sign x then -(magBits x : Int) else (magBits x : Int)

def lt (x y : Word) : Bool := !isNaN x && !isNaN y && decide (key x < key y)
def le (x y : Word) : Bool := !isNaN x && !isNaN y && decide (key x ≤ key y)
def eq (x y : Word) : Bool := !isNaN x && !isNaN y && decide (key x = key y)

/-! ## Derived operations (R16 to R18, R21) -/

/-- `clamp32` (R16). -/
def clamp (x lo hi : Word) : Word :=
  let t := if lt x lo then lo else x
  if lt hi t then hi else t

/-- `trunc32`, roundToIntegralTowardZero (R17): the fraction bits below the point are cleared. -/
def trunc (x : Word) : Word :=
  if isNaN x then qnan
  else if expo x < 127 then pack (sign x) 0
  else if 150 ≤ expo x then x
  else pack (sign x) (magBits x / 2 ^ (150 - expo x) * 2 ^ (150 - expo x))

/-- `floor32`, roundToIntegralTowardNegative (R17). -/
def floor (x : Word) : Word :=
  if isNaN x then qnan
  else if sign x && trunc x != x then sub (trunc x) one
  else trunc x

/-- `frac32` (R17). -/
def fract (x : Word) : Word :=
  let t := sub x (floor x)
  if le one t then zero else t

/-- `lerp32` (R18): three roundings. DEDUCED (log 22): the formula is followed also where the words of R168, R194, R223.3,
R223.5 or R303 say otherwise: a zero `a` of sign minus, a difference `b - a` that overflows or is inexact, equal
infinities. -/
def lerp (a b t : Word) : Word := add a (mul t (sub b a))

/-- `f32(n)` (R21): exact for every `|n| ≤ 2^24`. -/
def ofInt (n : Int) : Word := round (decide (n < 0)) (n.natAbs * 2 ^ 149) 1

/-- `int(x)` of a finite value, toward zero; the rules apply it to whole values. -/
def toInt (x : Word) : Int :=
  if sign x then -((units x / 2 ^ 149 : Nat) : Int) else ((units x / 2 ^ 149 : Nat) : Int)

end Sys2Proof.Machine.F32
end

