-- ==== Sys2Proof/Machine/Memory.lean ====
section
/-! DEFINITION. The contents of a sample buffer (20_memory.md R80 to R83): words by slot index, in one canonical form. -/

namespace Sys2Proof.Machine

/-- One slot of a sample buffer and the binary32 word it holds. The word is the smallest unit any access names (R85, log 12). -/
abbrev Slot := Nat × Word

/-- The slots that hold something else than the reset contents, by strictly rising index. -/
structure Memory where
  cells : List Slot
deriving DecidableEq, Repr

/-- What a slot no entry lists reads as: +0.0, the reset contents (10_state.md R65, R73). -/
def Memory.unlisted : Word := 0x00000000

/-- A buffer with every slot at its reset value. -/
def Memory.empty : Memory := ⟨[]⟩

def readCells : List Slot → Nat → Word
  | [], _ => Memory.unlisted
  | (k, v) :: rest, a => if k = a then v else readCells rest a

/-- The word in slot `a`. -/
def Memory.read (m : Memory) (a : Nat) : Word := readCells m.cells a

/-- An entry for slot `a`, or none where the word is what an unlisted slot reads as. -/
def entryFor (a : Nat) (v : Word) (rest : List Slot) : List Slot :=
  if v = Memory.unlisted then rest else (a, v) :: rest

def writeCells : List Slot → Nat → Word → List Slot
  | [], a, v => entryFor a v []
  | (k, w) :: rest, a, v =>
    if a < k then entryFor a v ((k, w) :: rest)
    else if a = k then entryFor a v rest
    else (k, w) :: writeCells rest a v

/-- Store `v` in slot `a`, keeping the canonical form. -/
def Memory.write (m : Memory) (a : Nat) (v : Word) : Memory := ⟨writeCells m.cells a v⟩

/-- Indices strictly rising from above `lo` (none: from anywhere), and no entry equal to the unlisted word. -/
def cellsWf : Option Nat → List Slot → Bool
  | _, [] => true
  | lo, (k, v) :: rest =>
    (match lo with | none => true | some b => decide (b < k)) && (v != Memory.unlisted) && cellsWf (some k) rest

/-- The canonical form: equal contents are equal data. -/
def Memory.wf (m : Memory) : Bool := cellsWf none m.cells

/-- Every listed slot lies below the capacity. -/
def Memory.within (m : Memory) (cap : Nat) : Bool := m.cells.all fun c => decide (c.1 < cap)

end Sys2Proof.Machine
end

