-- ==== Sys2Proof/Machine/Units.lean ====
section
/-! DEFINITION. The fourteen units: the parameter bank, state bank and sample buffer of one instance (10_state.md R39 to
R73), its power-on values and its reset (70_reset_and_hazards.md R350). Floats are binary32 words. -/

namespace Sys2Proof.Machine

/-- A_MIN = 2^-20, the smallest one-pole coefficient (00_scope.md R9). -/
def aMin : Word := 0x35800000

/-- A sample buffer with its capacity and write index (20_memory.md R80 to R82). The capacity never changes (R81). -/
structure Ring where
  cap : Nat
  w : Nat
  buf : Memory
deriving DecidableEq, Repr

/-- Every slot +0.0 and the write index 0 (R350). -/
def resetRing (b : Ring) : Ring := { b with w := 0, buf := Memory.empty }

def powerOnRing (cap : Nat) : Ring := { cap := cap, w := 0, buf := Memory.empty }

/-- R60: an int state register as a word. -/
def natWord (n : Nat) : Word := BitVec.ofNat 32 n

/-- R60: a bool state register as a word. -/
def boolWord (b : Bool) : Word := if b then 1 else 0

/-! ## BQ (R45, R61) -/

/-- One instance of BQ: its parameters, then its state registers. -/
structure Bq where
  b0 : Word
  b1 : Word
  b2 : Word
  a1 : Word
  a2 : Word
  x1 : Word
  x2 : Word
  y1 : Word
  y2 : Word
deriving DecidableEq, Repr

/-- Power-on values (R45, R61). -/
def powerOnBq : Bq where
  b0 := F32.one
  b1 := F32.zero
  b2 := F32.zero
  a1 := F32.zero
  a2 := F32.zero
  x1 := F32.zero
  x2 := F32.zero
  y1 := F32.zero
  y2 := F32.zero

/-- ResetInstance(BQ) (R350). -/
def resetBq (u : Bq) : Bq :=
  { u with x1 := F32.zero, x2 := F32.zero, y1 := F32.zero, y2 := F32.zero }

/-- P(BQ,i)[idx]. -/
def paramBq (u : Bq) : Nat → Option Word
  | 0 => some u.b0
  | 1 => some u.b1
  | 2 => some u.b2
  | 3 => some u.a1
  | 4 => some u.a2
  | _ => none

/-- P(BQ,i)[idx] <- v. -/
def setParamBq (u : Bq) (v : Word) : Nat → Bq
  | 0 => { u with b0 := v }
  | 1 => { u with b1 := v }
  | 2 => { u with b2 := v }
  | 3 => { u with a1 := v }
  | 4 => { u with a2 := v }
  | _ => u

/-- Word(S(BQ,i)[idx]) (R60). -/
def stateRegBq (u : Bq) : Nat → Option Word
  | 0 => some u.x1
  | 1 => some u.x2
  | 2 => some u.y1
  | 3 => some u.y2
  | _ => none

/-! ## LP (R46, R62) -/

/-- One instance of LP: its parameters, then its state registers. -/
structure Lp where
  a : Word
  y : Word
deriving DecidableEq, Repr

/-- Power-on values (R46, R62). -/
def powerOnLp : Lp where
  a := F32.one
  y := F32.zero

/-- ResetInstance(LP) (R350). -/
def resetLp (u : Lp) : Lp :=
  { u with y := F32.zero }

/-- P(LP,i)[idx]. -/
def paramLp (u : Lp) : Nat → Option Word
  | 0 => some u.a
  | _ => none

/-- P(LP,i)[idx] <- v. -/
def setParamLp (u : Lp) (v : Word) : Nat → Lp
  | 0 => { u with a := v }
  | _ => u

/-- Word(S(LP,i)[idx]) (R60). -/
def stateRegLp (u : Lp) : Nat → Option Word
  | 0 => some u.y
  | _ => none

/-! ## HP (R47, R63) -/

/-- One instance of HP: its parameters, then its state registers. -/
structure Hp where
  a : Word
  lp : Word
deriving DecidableEq, Repr

/-- Power-on values (R47, R63). -/
def powerOnHp : Hp where
  a := aMin
  lp := F32.zero

/-- ResetInstance(HP) (R350). -/
def resetHp (u : Hp) : Hp :=
  { u with lp := F32.zero }

/-- P(HP,i)[idx]. -/
def paramHp (u : Hp) : Nat → Option Word
  | 0 => some u.a
  | _ => none

/-- P(HP,i)[idx] <- v. -/
def setParamHp (u : Hp) (v : Word) : Nat → Hp
  | 0 => { u with a := v }
  | _ => u

/-- Word(S(HP,i)[idx]) (R60). -/
def stateRegHp (u : Hp) : Nat → Option Word
  | 0 => some u.lp
  | _ => none

/-! ## SC (R48, R64) -/

/-- One instance of SC: its parameters. -/
structure Sc where
  drive : Word
  mix : Word
deriving DecidableEq, Repr

/-- Power-on values (R48, R64). -/
def powerOnSc : Sc where
  drive := F32.one
  mix := F32.zero

/-- ResetInstance(SC) (R350). -/
def resetSc (u : Sc) : Sc := u

/-- P(SC,i)[idx]. -/
def paramSc (u : Sc) : Nat → Option Word
  | 0 => some u.drive
  | 1 => some u.mix
  | _ => none

/-- P(SC,i)[idx] <- v. -/
def setParamSc (u : Sc) (v : Word) : Nat → Sc
  | 0 => { u with drive := v }
  | 1 => { u with mix := v }
  | _ => u

/-- Word(S(SC,i)[idx]) (R60). -/
def stateRegSc (_ : Sc) : Nat → Option Word
  | _ => none

/-! ## DL (R49, R65) -/

/-- One instance of DL: its parameters, then its state registers, then its buffer with the write index. -/
structure Dl where
  ring : Ring
deriving DecidableEq, Repr

/-- Power-on values (R49, R65). -/
def powerOnDl (cap : Nat) : Dl where
  ring := powerOnRing cap

/-- ResetInstance(DL) (R350). -/
def resetDl (u : Dl) : Dl :=
  { u with ring := resetRing u.ring }

/-- P(DL,i)[idx]. -/
def paramDl (_ : Dl) : Nat → Option Word
  | _ => none

/-- P(DL,i)[idx] <- v. -/
def setParamDl (u : Dl) (_ : Word) : Nat → Dl
  | _ => u

/-- Word(S(DL,i)[idx]) (R60). -/
def stateRegDl (u : Dl) : Nat → Option Word
  | 0 => some (natWord u.ring.w)
  | _ => none

/-! ## DC (R50, R66) -/

/-- One instance of DC: its parameters, then its state registers. -/
structure Dc where
  r : Word
  x1 : Word
  y1 : Word
deriving DecidableEq, Repr

/-- Power-on values (R50, R66). -/
def powerOnDc : Dc where
  r := 0x3F7EB852
  x1 := F32.zero
  y1 := F32.zero

/-- ResetInstance(DC) (R350). -/
def resetDc (u : Dc) : Dc :=
  { u with x1 := F32.zero, y1 := F32.zero }

/-- P(DC,i)[idx]. -/
def paramDc (u : Dc) : Nat → Option Word
  | 0 => some u.r
  | _ => none

/-- P(DC,i)[idx] <- v. -/
def setParamDc (u : Dc) (v : Word) : Nat → Dc
  | 0 => { u with r := v }
  | _ => u

/-- Word(S(DC,i)[idx]) (R60). -/
def stateRegDc (u : Dc) : Nat → Option Word
  | 0 => some u.x1
  | 1 => some u.y1
  | _ => none

/-! ## LI (R51, R67) -/

/-- One instance of LI: its parameters, then its state registers. -/
structure Li where
  prev : Word
deriving DecidableEq, Repr

/-- Power-on values (R51, R67). -/
def powerOnLi : Li where
  prev := F32.zero

/-- ResetInstance(LI) (R350). -/
def resetLi (u : Li) : Li :=
  { u with prev := F32.zero }

/-- P(LI,i)[idx]. -/
def paramLi (_ : Li) : Nat → Option Word
  | _ => none

/-- P(LI,i)[idx] <- v. -/
def setParamLi (u : Li) (_ : Word) : Nat → Li
  | _ => u

/-- Word(S(LI,i)[idx]) (R60). -/
def stateRegLi (u : Li) : Nat → Option Word
  | 0 => some u.prev
  | _ => none

/-! ## DS (R52, R68) -/

/-- One instance of DS: its parameters, then its state registers. -/
structure Ds where
  gain : Word
  k : Word
  a : Word
  lp : Word
deriving DecidableEq, Repr

/-- Power-on values (R52, R68). -/
def powerOnDs : Ds where
  gain := F32.one
  k := F32.one
  a := aMin
  lp := F32.zero

/-- ResetInstance(DS) (R350). -/
def resetDs (u : Ds) : Ds :=
  { u with lp := F32.zero }

/-- P(DS,i)[idx]. -/
def paramDs (u : Ds) : Nat → Option Word
  | 0 => some u.gain
  | 1 => some u.k
  | 2 => some u.a
  | _ => none

/-- P(DS,i)[idx] <- v. -/
def setParamDs (u : Ds) (v : Word) : Nat → Ds
  | 0 => { u with gain := v }
  | 1 => { u with k := v }
  | 2 => { u with a := v }
  | _ => u

/-- Word(S(DS,i)[idx]) (R60). -/
def stateRegDs (u : Ds) : Nat → Option Word
  | 0 => some u.lp
  | _ => none

/-! ## XO (R53, R69) -/

/-- One instance of XO: its parameters, then its state registers. -/
structure Xo where
  a : Word
  lp : Word
deriving DecidableEq, Repr

/-- Power-on values (R53, R69). -/
def powerOnXo : Xo where
  a := F32.one
  lp := F32.zero

/-- ResetInstance(XO) (R350). -/
def resetXo (u : Xo) : Xo :=
  { u with lp := F32.zero }

/-- P(XO,i)[idx]. -/
def paramXo (u : Xo) : Nat → Option Word
  | 0 => some u.a
  | _ => none

/-- P(XO,i)[idx] <- v. -/
def setParamXo (u : Xo) (v : Word) : Nat → Xo
  | 0 => { u with a := v }
  | _ => u

/-- Word(S(XO,i)[idx]) (R60). -/
def stateRegXo (u : Xo) : Nat → Option Word
  | 0 => some u.lp
  | _ => none

/-! ## MD (R54, R64) -/

/-- One instance of MD: its parameters. -/
structure Md where
  base : Word
  swing : Word
  am : Word
  off : Word
  dlsel : Word
deriving DecidableEq, Repr

/-- Power-on values (R54, R64). -/
def powerOnMd : Md where
  base := F32.one
  swing := F32.zero
  am := F32.zero
  off := F32.zero
  dlsel := F32.zero

/-- ResetInstance(MD) (R350). -/
def resetMd (u : Md) : Md := u

/-- P(MD,i)[idx]. -/
def paramMd (u : Md) : Nat → Option Word
  | 0 => some u.base
  | 1 => some u.swing
  | 2 => some u.am
  | 3 => some u.off
  | 4 => some u.dlsel
  | _ => none

/-- P(MD,i)[idx] <- v. -/
def setParamMd (u : Md) (v : Word) : Nat → Md
  | 0 => { u with base := v }
  | 1 => { u with swing := v }
  | 2 => { u with am := v }
  | 3 => { u with off := v }
  | 4 => { u with dlsel := v }
  | _ => u

/-- Word(S(MD,i)[idx]) (R60). -/
def stateRegMd (_ : Md) : Nat → Option Word
  | _ => none

/-! ## NCO (R55, R70) -/

/-- One instance of NCO: its parameters, then its state registers. -/
structure Nco where
  c : Word
  f : Word
  ph : Word
deriving DecidableEq, Repr

/-- Power-on values (R55, R70). -/
def powerOnNco : Nco where
  c := F32.one
  f := F32.zero
  ph := F32.zero

/-- ResetInstance(NCO) (R350). -/
def resetNco (u : Nco) : Nco :=
  { u with f := F32.zero, ph := F32.zero }

/-- P(NCO,i)[idx]. -/
def paramNco (u : Nco) : Nat → Option Word
  | 0 => some u.c
  | _ => none

/-- P(NCO,i)[idx] <- v. -/
def setParamNco (u : Nco) (v : Word) : Nat → Nco
  | 0 => { u with c := v }
  | _ => u

/-- Word(S(NCO,i)[idx]) (R60). -/
def stateRegNco (u : Nco) : Nat → Option Word
  | 0 => some u.f
  | 1 => some u.ph
  | _ => none

/-! ## ZC (R56, R71) -/

/-- One instance of ZC: its parameters, then its state registers. -/
structure Zc where
  thOn : Word
  thOff : Word
  hangLen : Word
  hyst : Word
  fMin : Word
  fMax : Word
  foldTol : Word
  maxJump : Word
  smooth : Word
  fIdle : Word
  drift : Word
  cnt : Nat
  pos : Bool
  f : Word
  locked : Bool
  hang : Nat
deriving DecidableEq, Repr

/-- Power-on values (R56, R71). -/
def powerOnZc : Zc where
  thOn := 0x3CA3D70A
  thOff := 0x3C23D70A
  hangLen := 0x45000000
  hyst := 0x3A83126F
  fMin := 0x42200000
  fMax := 0x44BB8000
  foldTol := 0x3DCCCCCD
  maxJump := 0x3E800000
  smooth := 0x3DCCCCCD
  fIdle := 0x42DC0000
  drift := 0x3A83126F
  cnt := 0
  pos := false
  f := 0x42DC0000
  locked := false
  hang := 0

/-- ResetInstance(ZC) (R350). -/
def resetZc (u : Zc) : Zc :=
  { u with cnt := 0, pos := false, f := u.fIdle, locked := false, hang := 0 }

/-- P(ZC,i)[idx]. -/
def paramZc (u : Zc) : Nat → Option Word
  | 0 => some u.thOn
  | 1 => some u.thOff
  | 2 => some u.hangLen
  | 3 => some u.hyst
  | 4 => some u.fMin
  | 5 => some u.fMax
  | 6 => some u.foldTol
  | 7 => some u.maxJump
  | 8 => some u.smooth
  | 9 => some u.fIdle
  | 10 => some u.drift
  | _ => none

/-- P(ZC,i)[idx] <- v. -/
def setParamZc (u : Zc) (v : Word) : Nat → Zc
  | 0 => { u with thOn := v }
  | 1 => { u with thOff := v }
  | 2 => { u with hangLen := v }
  | 3 => { u with hyst := v }
  | 4 => { u with fMin := v }
  | 5 => { u with fMax := v }
  | 6 => { u with foldTol := v }
  | 7 => { u with maxJump := v }
  | 8 => { u with smooth := v }
  | 9 => { u with fIdle := v }
  | 10 => { u with drift := v }
  | _ => u

/-- Word(S(ZC,i)[idx]) (R60). -/
def stateRegZc (u : Zc) : Nat → Option Word
  | 0 => some (natWord u.cnt)
  | 1 => some (boolWord u.pos)
  | 2 => some u.f
  | 3 => some (boolWord u.locked)
  | 4 => some (natWord u.hang)
  | _ => none

/-! ## ENV (R57, R72) -/

/-- One instance of ENV: its parameters, then its state registers. -/
structure Env where
  att : Word
  rel : Word
  e : Word
deriving DecidableEq, Repr

/-- Power-on values (R57, R72). -/
def powerOnEnv : Env where
  att := 0x3C75C28F
  rel := 0x3B449BA6
  e := F32.zero

/-- ResetInstance(ENV) (R350). -/
def resetEnv (u : Env) : Env :=
  { u with e := F32.zero }

/-- P(ENV,i)[idx]. -/
def paramEnv (u : Env) : Nat → Option Word
  | 0 => some u.att
  | 1 => some u.rel
  | _ => none

/-- P(ENV,i)[idx] <- v. -/
def setParamEnv (u : Env) (v : Word) : Nat → Env
  | 0 => { u with att := v }
  | 1 => { u with rel := v }
  | _ => u

/-- Word(S(ENV,i)[idx]) (R60). -/
def stateRegEnv (u : Env) : Nat → Option Word
  | 0 => some u.e
  | _ => none

/-! ## GP (R58, R73) -/

/-- One instance of GP: its parameters, then its state registers, then its buffer with the write index. -/
structure Gp where
  ratio : Word
  glen : Word
  p0 : Word
  p1 : Word
  p2 : Word
  p3 : Word
  ring : Ring
deriving DecidableEq, Repr

/-- Power-on values (R58, R73). -/
def powerOnGp (cap : Nat) : Gp where
  ratio := F32.one
  glen := F32.ofInt ((cap : Int) - 2)
  p0 := F32.zero
  p1 := 0x3E800000
  p2 := F32.half
  p3 := 0x3F400000
  ring := powerOnRing cap

/-- ResetInstance(GP) (R350). -/
def resetGp (u : Gp) : Gp :=
  { u with p0 := F32.zero, p1 := 0x3E800000, p2 := F32.half, p3 := 0x3F400000, ring := resetRing u.ring }

/-- P(GP,i)[idx]. -/
def paramGp (u : Gp) : Nat → Option Word
  | 0 => some u.ratio
  | 1 => some u.glen
  | _ => none

/-- P(GP,i)[idx] <- v. -/
def setParamGp (u : Gp) (v : Word) : Nat → Gp
  | 0 => { u with ratio := v }
  | 1 => { u with glen := v }
  | _ => u

/-- Word(S(GP,i)[idx]) (R60). -/
def stateRegGp (u : Gp) : Nat → Option Word
  | 0 => some (natWord u.ring.w)
  | 1 => some u.p0
  | 2 => some u.p1
  | 3 => some u.p2
  | 4 => some u.p3
  | _ => none

end Sys2Proof.Machine
end

