-- ==== Sys2Proof/Machine/State.lean ====
section
/-! DEFINITION. The machine's state (10_state.md), the reasons a step can stop, and power-on reset (R352). -/

namespace Sys2Proof.Machine

/-- What the outside world does to the block: host bus accesses (20_memory.md R86 to R89) and the loss and return of
power (60_exceptions.md R335). Widths are in bytes. -/
inductive BusEvent where
  | read (addr width : Nat)
  | write (addr width : Nat) (data : Word)
  /-- Power is removed and applied again. -/
  | powerCycle
deriving DecidableEq, Repr

/-- Why the machine stops. No command of the block raises one (R320). -/
inductive Fault where
  /-- Raised by a host access at an address beyond 0xFFF, which the bus space does not have (R80, log 10). Safe: the
  access has no effect in the model. -/
  | outsideWindow (addr : Nat)
deriving DecidableEq, Repr

/-- Why the model gives no step. -/
inductive Refusal where
  /-- A command with no meaning yet; no arm of exec answers it. Safe. -/
  | notModelled (mnemonic : String)
  /-- Raised by a host access that is misaligned or not 4 bytes wide: the block performs no read and no write, and a
  model gives it no step (R86, log 11). Safe. -/
  | unperformedAccess (addr width : Nat)
deriving DecidableEq, Repr

/-- The state. The number of instances of a unit is the length of its list; the capacity of a buffer stands in the
instance (R8, log 5). -/
structure State where
  /-- d0..d15 (R30). -/
  d : Vector Word 16
  /-- Which data registers the host or a command has written since power-on (R32, log 2). -/
  written : Vector Bool 16
  /-- STATUS (R34). -/
  status : Word
  /-- FS = P(GLOBAL,0).fs (R38). -/
  fs : Word
  bq : List Bq
  lp : List Lp
  hp : List Hp
  sc : List Sc
  dl : List Dl
  dc : List Dc
  li : List Li
  ds : List Ds
  xo : List Xo
  md : List Md
  nco : List Nco
  zc : List Zc
  env : List Env
  gp : List Gp
  /-- The model's own: pending bus events, oldest first (log 3). -/
  bus : List BusEvent
  /-- The model's own: the word the last host read returned (log 4). -/
  readData : Word
deriving DecidableEq, Repr

/-- The outcome of a step of this machine. -/
abbrev Result := Host.Outcome State Fault Refusal

/-- Power-on reset of the configuration `c` (R76, R352). The data registers are unspecified there (R32); the model's
value is 0, DESIGN CHOICE (log 1). -/
def powerOn (c : Config) : State where
  d := Vector.replicate 16 0
  written := Vector.replicate 16 false
  status := 0
  fs := 0x472C4400
  bq := List.replicate c.nBq powerOnBq
  lp := List.replicate c.nLp powerOnLp
  hp := List.replicate c.nHp powerOnHp
  sc := List.replicate c.nSc powerOnSc
  dl := c.dlCap.map powerOnDl
  dc := List.replicate c.nDc powerOnDc
  li := List.replicate c.nLi powerOnLi
  ds := List.replicate c.nDs powerOnDs
  xo := List.replicate c.nXo powerOnXo
  md := List.replicate c.nMd powerOnMd
  nco := List.replicate c.nNco powerOnNco
  zc := List.replicate c.nZc powerOnZc
  env := List.replicate c.nEnv powerOnEnv
  gp := c.gpCap.map powerOnGp
  bus := []
  readData := 0

/-- The machine right after power-on reset, in the default configuration of 95_test_vectors.md (log 5). -/
def State.reset : State := powerOn Config.default

/-- The configuration a state has (R8): it never changes. -/
def State.config (s : State) : Config where
  nBq := s.bq.length
  nLp := s.lp.length
  nHp := s.hp.length
  nSc := s.sc.length
  dlCap := s.dl.map (·.ring.cap)
  nDc := s.dc.length
  nLi := s.li.length
  nDs := s.ds.length
  nXo := s.xo.length
  nMd := s.md.length
  nNco := s.nco.length
  nZc := s.zc.length
  nEnv := s.env.length
  gpCap := s.gp.map (·.ring.cap)

end Sys2Proof.Machine
end

