-- ==== Sys2Proof/Machine/Flags.lean ====
section
/-! DEFINITION. The fields of STATUS and how commands and the host change them (10_state.md R34 to R36). -/

namespace Sys2Proof.Machine

/-! STATUS bits (R34). -/

def illMask : Word := 0x00000001
def nvMask : Word := 0x00000002
def oclampMask : Word := 0x00000004
def pclampMask : Word := 0x00000008
def pnanMask : Word := 0x00000010
/-- The sticky flags, bits 4:0. -/
def stickyMask : Word := 0x0000001F
/-- CAUSE, bits 11:8. -/
def causeMask : Word := 0x00000F00
/-- Every bit R34 defines; the others are reserved and read 0. -/
def statusMask : Word := 0x00000F1F

/-- The code of a cause (60_exceptions.md R321). -/
def causeCode : Cause → BitVec 4
  | .illegalOpcode => 1
  | .reservedField => 2
  | .badUnit => 3
  | .badInstance => 4
  | .badIndex => 5
  | .badPair => 6

/-- STATUS.ILL. -/
def State.ill (s : State) : Bool := s.status.getLsbD 0
/-- STATUS.NV. -/
def State.nv (s : State) : Bool := s.status.getLsbD 1
/-- STATUS.OCLAMP. -/
def State.oclamp (s : State) : Bool := s.status.getLsbD 2
/-- STATUS.PCLAMP. -/
def State.pclamp (s : State) : Bool := s.status.getLsbD 3
/-- STATUS.PNAN. -/
def State.pnan (s : State) : Bool := s.status.getLsbD 4
/-- STATUS.CAUSE. -/
def State.cause (s : State) : BitVec 4 := s.status.extractLsb' 8 4

/-- Set sticky flags: commands only set them (R34). -/
def State.setFlags (s : State) (mask : Word) : State := { s with status := s.status ||| mask }

/-- StickyNV(x1, ..., xn) (R36). -/
def State.stickyNV (s : State) (xs : List Word) : State := if xs.any F32.isNaN then s.setFlags nvMask else s

/-- Set a flag where a condition holds. -/
def State.setFlagIf (s : State) (c : Bool) (mask : Word) : State := if c then s.setFlags mask else s

/-- A host write of `v` to STATUS (R35): ones clear bits 4:0, and a one in bit 0 clears CAUSE. -/
def State.writeStatus (s : State) (v : Word) : State :=
  { s with
    status := s.status &&& ~~~(v &&& stickyMask) &&& (if v.getLsbD 0 then ~~~causeMask else BitVec.allOnes 32) }

/-- STATUS as a host read returns it: the reserved bits 0 (R35). -/
def State.readStatus (s : State) : Word := s.status &&& statusMask

end Sys2Proof.Machine
end

