-- ==== Sys2Proof/Machine/Operands.lean ====
section
/-! DEFINITION. Operand forms (00_scope.md R11, 30_encoding.md R104): data registers as words, binary32 values and int16
samples, and the write of a result. -/

namespace Sys2Proof.Machine

/-- `d[r]`: the register as a word (R11, R30). -/
def State.reg (s : State) (r : Reg) : Word := s.d.get r.toFin

/-- `fd[r]`: the register as a binary32 value. Every NaN reads as QNAN: only MOV copies another (41_scalar.md R163,
43_delay_line.md R221; log 8). -/
def State.freg (s : State) (r : Reg) : Word := F32.canon (s.reg r)

/-- `int(sext_32(d[r][15:0]))` (41_scalar.md R173). -/
def State.sample (s : State) (r : Reg) : Int := ((s.reg r).extractLsb' 0 16).toInt

/-- `d[r] <- v`, `fd[r] <- v` (R11). The register is then written (R32). -/
def State.writeReg (s : State) (r : Reg) (v : Word) : State :=
  { s with d := s.d.set r.toNat v r.isLt, written := s.written.set r.toNat true r.isLt }

/-- The host or a command has written the register since power-on (R32). -/
def State.isWritten (s : State) (r : Reg) : Bool := s.written.get r.toFin

/-- The end of a float command: StickyNV of the values its rule lists, then `fd[rd] <- y`. -/
def State.result (s : State) (nv : List Word) (rd : Reg) (y : Word) : State := (s.stickyNV nv).writeReg rd y

end Sys2Proof.Machine
end

