-- ==== Sys2Proof/Machine/Transcendental.lean ====
section
/-! DEFINITION. EXP, ATAN, TANH, SIN2PI and COS2PI (00_scope.md R8, R20): the free functions of Config, kept inside the
properties R20 gives. Every function with those properties is one of these (log 6), and none has another property. -/

namespace Sys2Proof.Machine.F32

/-- A non-decreasing sequence over the magnitudes 0, 1, 2, … (bits 30:0), from `start` and never above `top`, that
follows the free function `raw` where it may. -/
def climb (raw : Word → Word) (start top : Word) : Nat → Word
  | 0 => start
  | n + 1 =>
    let r := raw (pack false (n + 1))
    if isNaN r then climb raw start top n else clamp r (climb raw start top n) top

/-- A non-increasing sequence over the magnitudes of the negative words, from `start` and never below `bottom`. -/
def descend (raw : Word → Word) (start bottom : Word) : Nat → Word
  | 0 => start
  | n + 1 =>
    let r := raw (pack true (n + 1))
    if isNaN r then descend raw start bottom n else clamp r bottom (descend raw start bottom n)

/-- EXP (R20): QNAN for a NaN, 1.0 at a zero, non-decreasing, in [0, +inf]. -/
def exp (x : Word) : Word :=
  if isNaN x then qnan
  else if sign x then descend Config.rawExp one zero (magBits x)
  else climb Config.rawExp one inf (magBits x)

/-- An odd, non-decreasing function with magnitude at most `bound`. -/
def oddClimb (raw : Word → Word) (bound x : Word) : Word :=
  if isNaN x then qnan
  else if sign x then neg (climb raw zero bound (magBits x))
  else climb raw zero bound (magBits x)

/-- The binary32 nearest π/2, the bound of ATAN (R20). -/
def halfPi : Word := 0x3FC90FDB

/-- ATAN (R20): odd, non-decreasing, +0.0 at +0.0, magnitude at most `halfPi`. -/
def atan (x : Word) : Word := oddClimb Config.rawAtan halfPi x

/-- TANH (R20): odd, non-decreasing, +0.0 at +0.0, magnitude at most 1.0. -/
def tanh (x : Word) : Word := oddClimb Config.rawTanh one x

/-- A finite word that is a multiple of 1/4: 1/4 is 2^147 units. -/
def isQuarterMultiple (u : Word) : Bool := decide (units u % 2 ^ 147 = 0)

/-- Of a multiple of 1/4: its number of quarter turns modulo 1 turn. -/
def quarterTurns (u : Word) : Nat :=
  let q := units u / 2 ^ 147 % 4
  if sign u then (4 - q) % 4 else q

/-- A free value kept in [-1.0, 1.0]. -/
def unitInterval (r : Word) : Word := if isNaN r then zero else clamp r negOne one

/-- SIN2PI (R20): QNAN for a NaN or an infinity, exact at multiples of 1/4, otherwise in [-1.0, 1.0]. -/
def sin2pi (u : Word) : Word :=
  if isNaN u || isInf u then qnan
  else if u = negZero then negZero
  else if isQuarterMultiple u then
    match quarterTurns u with
    | 0 => zero
    | 1 => one
    | 2 => zero
    | _ => negOne
  else unitInterval (Config.rawSin2pi u)

/-- COS2PI (R20): QNAN for a NaN or an infinity, exact at multiples of 1/4, otherwise in [-1.0, 1.0]. -/
def cos2pi (u : Word) : Word :=
  if isNaN u || isInf u then qnan
  else if isQuarterMultiple u then
    match quarterTurns u with
    | 0 => one
    | 1 => zero
    | 2 => negOne
    | _ => zero
  else unitInterval (Config.rawCos2pi u)

end Sys2Proof.Machine.F32
end

