-- ==== Sys2Proof/Machine/Ops.lean ====
section
/-! DEFINITION. The named operations of the rules: rejection (60_exceptions.md R322), the banks of the units (10_state.md
R39, R59), ParamWrite (R41), ResetInstance (70_reset_and_hazards.md R350) and the buffer primitives (20_memory.md R82 to
R84). -/

namespace Sys2Proof.Machine

/-! ## Rejection, the block's one exception-like outcome -/

/-- `raise Reject(cause)` (R13, R322): CAUSE is recorded if ILL was 0, ILL is set, and nothing else changes. There is no
return from it (R328): the host clears ILL and CAUSE by `State.writeStatus` (R35). -/
def State.reject (s : State) (c : Cause) : State :=
  { s with
    status := (if s.ill then s.status else (s.status &&& ~~~causeMask) ||| ((causeCode c).zeroExtend 32 <<< 8)) ||| illMask }

/-! ## The banks of the units -/

/-- N_U, with N_GLOBAL = N_ALL = 1 (R8, R105). -/
def State.count (s : State) : UnitName → Nat
  | .global => 1
  | .bq => s.bq.length
  | .lp => s.lp.length
  | .hp => s.hp.length
  | .sc => s.sc.length
  | .dl => s.dl.length
  | .dc => s.dc.length
  | .li => s.li.length
  | .ds => s.ds.length
  | .xo => s.xo.length
  | .md => s.md.length
  | .nco => s.nco.length
  | .zc => s.zc.length
  | .env => s.env.length
  | .gp => s.gp.length
  | .all => 1

/-- P(U,i)[idx] (R39): none where the instance or the index does not exist. -/
def State.param? (s : State) (u : UnitName) (i idx : Nat) : Option Word :=
  match u with
  | .global => if i = 0 ∧ idx = 0 then some s.fs else none
  | .bq => s.bq[i]?.bind fun x => paramBq x idx
  | .lp => s.lp[i]?.bind fun x => paramLp x idx
  | .hp => s.hp[i]?.bind fun x => paramHp x idx
  | .sc => s.sc[i]?.bind fun x => paramSc x idx
  | .dl => s.dl[i]?.bind fun x => paramDl x idx
  | .dc => s.dc[i]?.bind fun x => paramDc x idx
  | .li => s.li[i]?.bind fun x => paramLi x idx
  | .ds => s.ds[i]?.bind fun x => paramDs x idx
  | .xo => s.xo[i]?.bind fun x => paramXo x idx
  | .md => s.md[i]?.bind fun x => paramMd x idx
  | .nco => s.nco[i]?.bind fun x => paramNco x idx
  | .zc => s.zc[i]?.bind fun x => paramZc x idx
  | .env => s.env[i]?.bind fun x => paramEnv x idx
  | .gp => s.gp[i]?.bind fun x => paramGp x idx
  | .all => none

/-- P(U,i)[idx] <- v. -/
def State.setParam (s : State) (u : UnitName) (i idx : Nat) (v : Word) : State :=
  match u with
  | .global => if i = 0 ∧ idx = 0 then { s with fs := v } else s
  | .bq => { s with bq := s.bq.modify i fun x => setParamBq x v idx }
  | .lp => { s with lp := s.lp.modify i fun x => setParamLp x v idx }
  | .hp => { s with hp := s.hp.modify i fun x => setParamHp x v idx }
  | .sc => { s with sc := s.sc.modify i fun x => setParamSc x v idx }
  | .dl => { s with dl := s.dl.modify i fun x => setParamDl x v idx }
  | .dc => { s with dc := s.dc.modify i fun x => setParamDc x v idx }
  | .li => { s with li := s.li.modify i fun x => setParamLi x v idx }
  | .ds => { s with ds := s.ds.modify i fun x => setParamDs x v idx }
  | .xo => { s with xo := s.xo.modify i fun x => setParamXo x v idx }
  | .md => { s with md := s.md.modify i fun x => setParamMd x v idx }
  | .nco => { s with nco := s.nco.modify i fun x => setParamNco x v idx }
  | .zc => { s with zc := s.zc.modify i fun x => setParamZc x v idx }
  | .env => { s with env := s.env.modify i fun x => setParamEnv x v idx }
  | .gp => { s with gp := s.gp.modify i fun x => setParamGp x v idx }
  | .all => s

/-- Word(S(U,i)[idx]) (R59, R60): none where the instance or the index does not exist. -/
def State.stateReg? (s : State) (u : UnitName) (i idx : Nat) : Option Word :=
  match u with
  | .global => none
  | .bq => s.bq[i]?.bind fun x => stateRegBq x idx
  | .lp => s.lp[i]?.bind fun x => stateRegLp x idx
  | .hp => s.hp[i]?.bind fun x => stateRegHp x idx
  | .sc => s.sc[i]?.bind fun x => stateRegSc x idx
  | .dl => s.dl[i]?.bind fun x => stateRegDl x idx
  | .dc => s.dc[i]?.bind fun x => stateRegDc x idx
  | .li => s.li[i]?.bind fun x => stateRegLi x idx
  | .ds => s.ds[i]?.bind fun x => stateRegDs x idx
  | .xo => s.xo[i]?.bind fun x => stateRegXo x idx
  | .md => s.md[i]?.bind fun x => stateRegMd x idx
  | .nco => s.nco[i]?.bind fun x => stateRegNco x idx
  | .zc => s.zc[i]?.bind fun x => stateRegZc x idx
  | .env => s.env[i]?.bind fun x => stateRegEnv x idx
  | .gp => s.gp[i]?.bind fun x => stateRegGp x idx
  | .all => none

/-! The new bank of instance i after a step command. -/

def State.setBq (s : State) (i : InstNo) (u : Bq) : State := { s with bq := s.bq.set i.toNat u }
def State.setLp (s : State) (i : InstNo) (u : Lp) : State := { s with lp := s.lp.set i.toNat u }
def State.setHp (s : State) (i : InstNo) (u : Hp) : State := { s with hp := s.hp.set i.toNat u }
def State.setSc (s : State) (i : InstNo) (u : Sc) : State := { s with sc := s.sc.set i.toNat u }
def State.setDl (s : State) (i : InstNo) (u : Dl) : State := { s with dl := s.dl.set i.toNat u }
def State.setDc (s : State) (i : InstNo) (u : Dc) : State := { s with dc := s.dc.set i.toNat u }
def State.setLi (s : State) (i : InstNo) (u : Li) : State := { s with li := s.li.set i.toNat u }
def State.setDs (s : State) (i : InstNo) (u : Ds) : State := { s with ds := s.ds.set i.toNat u }
def State.setXo (s : State) (i : InstNo) (u : Xo) : State := { s with xo := s.xo.set i.toNat u }
def State.setMd (s : State) (i : InstNo) (u : Md) : State := { s with md := s.md.set i.toNat u }
def State.setNco (s : State) (i : InstNo) (u : Nco) : State := { s with nco := s.nco.set i.toNat u }
def State.setZc (s : State) (i : InstNo) (u : Zc) : State := { s with zc := s.zc.set i.toNat u }
def State.setEnv (s : State) (i : InstNo) (u : Env) : State := { s with env := s.env.set i.toNat u }
def State.setGp (s : State) (i : InstNo) (u : Gp) : State := { s with gp := s.gp.set i.toNat u }

/-- ResetInstance(U, i) (R350). GLOBAL has no state (R351). -/
def State.resetInstance (s : State) (u : UnitName) (i : Nat) : State :=
  match u with
  | .global => s
  | .bq => { s with bq := s.bq.modify i resetBq }
  | .lp => { s with lp := s.lp.modify i resetLp }
  | .hp => { s with hp := s.hp.modify i resetHp }
  | .sc => { s with sc := s.sc.modify i resetSc }
  | .dl => { s with dl := s.dl.modify i resetDl }
  | .dc => { s with dc := s.dc.modify i resetDc }
  | .li => { s with li := s.li.modify i resetLi }
  | .ds => { s with ds := s.ds.modify i resetDs }
  | .xo => { s with xo := s.xo.modify i resetXo }
  | .md => { s with md := s.md.modify i resetMd }
  | .nco => { s with nco := s.nco.modify i resetNco }
  | .zc => { s with zc := s.zc.modify i resetZc }
  | .env => { s with env := s.env.modify i resetEnv }
  | .gp => { s with gp := s.gp.modify i resetGp }
  | .all => s

/-- ResetInstance of every instance of every unit 1 to 14; the order is not observable (R351, log 14). -/
def State.resetAll (s : State) : State :=
  { s with
    bq := s.bq.map resetBq,
    lp := s.lp.map resetLp,
    hp := s.hp.map resetHp,
    sc := s.sc.map resetSc,
    dl := s.dl.map resetDl,
    dc := s.dc.map resetDc,
    li := s.li.map resetLi,
    ds := s.ds.map resetDs,
    xo := s.xo.map resetXo,
    md := s.md.map resetMd,
    nco := s.nco.map resetNco,
    zc := s.zc.map resetZc,
    env := s.env.map resetEnv,
    gp := s.gp.map resetGp }

/-! ## Parameter writes -/

/-- The legal range of a parameter of class `c` of instance i (R40). -/
def State.classRange (s : State) (i : Nat) : ParamClass → Word × Word
  | .fin => (F32.neg F32.maxF, F32.maxF)
  | .nneg => (F32.zero, F32.maxF)
  | .unit => (F32.zero, F32.one)
  | .coef => (aMin, F32.one)
  | .fsr => (0x45FA0000, 0x483B8000)
  | .rdc => (F32.zero, 0x3F7FFFFF)
  | .dly => (F32.one, F32.maxF)
  | .idxdl => (F32.zero, F32.ofInt ((s.dl.length : Int) - 1))
  | .hang => (F32.zero, 0x4B800000)
  | .glen => (F32.two, F32.ofInt (((s.gp[i]?.map (·.ring.cap)).getD 0 : Int) - 2))

/-- ParamWrite(U, i, idx, x) (R41, R42): a NaN is ignored, the value is clamped to its range, an integer parameter is
truncated toward zero. DEDUCED: PCLAMP compares before the truncation (log 17), and a `-0.0` in the range of an integer
parameter is stored as it is (log 30). -/
def State.paramWrite (s : State) (u : UnitName) (i idx : Nat) (x : Word) : State :=
  if F32.isNaN x then s.setFlags pnanMask
  else
    match (paramTable u)[idx]? with
    | none => s
    | some (_, c) =>
      let v := F32.clamp x (s.classRange i c).1 (s.classRange i c).2
      (s.setFlagIf (!F32.eq v x) pclampMask).setParam u i idx (if c.isInteger then F32.trunc v else v)

/-! ## Sample buffers -/

/-- BufWrite (R82): the sample goes to the write index, which advances modulo the capacity. -/
def bufWrite (b : Ring) (v : Word) : Ring := { b with buf := b.buf.write b.w v, w := (b.w + 1) % b.cap }

/-- The slot of the sample written `k` writes ago, `1 ≤ k ≤ cap`: `(w - k) mod cap` (R83). -/
def bufSlot (b : Ring) (k : Nat) : Nat := (b.w + b.cap - k) % b.cap

/-- BufRead (R83). -/
def bufRead (b : Ring) (k : Nat) : Word := b.buf.read (bufSlot b k)

/-- The delay FracRead reads at (R84): a NaN reads at 1.0, any other delay is clamped to `[1.0, f32(cap - 1)]`. -/
def fracDelay (b : Ring) (dly : Word) : Word :=
  if F32.isNaN dly then F32.one else F32.clamp dly F32.one (F32.ofInt ((b.cap : Int) - 1))

/-- FracRead (R84): the fractional, linearly interpolated read. DEDUCED (log 22): where the difference of the two samples
overflows, `lerp32` gives an infinity or QNAN and not a value between them (43_delay_line.md R223.3, R223.5). -/
def fracRead (b : Ring) (dly : Word) : Word :=
  let dc := fracDelay b dly
  let k := (F32.toInt (F32.floor dc)).toNat
  F32.lerp (bufRead b k) (bufRead b (k + 1)) (F32.sub dc (F32.ofInt k))

/-! ## Shared arithmetic of the units -/

/-- One step of the one-pole recursion `y + a * (x - y)` (42_primitives.md R191). DEDUCED (log 25): the formula is followed
where `x - y` is inexact, overflows or is a NaN, whatever the words of R191 and R192 say of `a = 1.0`, of finite and of
infinite inputs. -/
def onePole (y a x : Word) : Word := F32.add y (F32.mul a (F32.sub x y))

/-- TWO_OVER_PI32 (R9). -/
def twoOverPi : Word := 0x3F22F983

/-- `TWO_OVER_PI32 * ATAN(u)`, the arctangent saturator of R169 and R241. -/
def atanShaper (u : Word) : Word := F32.mul twoOverPi (F32.atan u)

end Sys2Proof.Machine
end

