-- ==== Sys2Proof/Machine/Control.lean ====
section
/-! DEFINITION. The control commands NOP, RST, SETP, GETP, GETS, COEF (40_control.md). -/

namespace Sys2Proof.Machine

/-- NOP (R140). -/
def execNop (s : State) : Result := .next s

/-- RST (R141): every unit is legal; BAD_INSTANCE is checked against N_U, 1 for GLOBAL and ALL. -/
def execRst (u : UnitName) (inst : InstNo) (s : State) : Result :=
  if s.count u ≤ inst.toNat then .next (s.reject .badInstance)
  else if u = .all then .next s.resetAll
  else .next (s.resetInstance u inst.toNat)

/-- SETP (R142). NV is never set. -/
def execSetp (ra : Reg) (u : UnitName) (inst : InstNo) (idx : Idx) (s : State) : Result :=
  if u = .all then .next (s.reject .badUnit)
  else if s.count u ≤ inst.toNat then .next (s.reject .badInstance)
  else if paramCount u ≤ idx.toNat then .next (s.reject .badIndex)
  else .next (s.paramWrite u inst.toNat idx.toNat (s.freg ra))

/-- GETP (R143): none of the checks passed over leaves a parameter that does not exist but BAD_INDEX. -/
def execGetp (rd : Reg) (u : UnitName) (inst : InstNo) (idx : Idx) (s : State) : Result :=
  if u = .all then .next (s.reject .badUnit)
  else if s.count u ≤ inst.toNat then .next (s.reject .badInstance)
  else match s.param? u inst.toNat idx.toNat with
    | none => .next (s.reject .badIndex)
    | some v => .next (s.writeReg rd v)

/-- GETS (R144): a NaN state value is copied without setting NV. -/
def execGets (rd : Reg) (u : UnitName) (inst : InstNo) (idx : Idx) (s : State) : Result :=
  if u = .all then .next (s.reject .badUnit)
  else if s.count u ≤ inst.toNat then .next (s.reject .badInstance)
  else match s.stateReg? u inst.toNat idx.toNat with
    | none => .next (s.reject .badIndex)
    | some v => .next (s.writeReg rd v)

/-- FC_MIN = 1.0 Hz (R9). -/
def fcMin : Word := F32.one

/-- FC_MAX_RATIO (R9). -/
def fcMaxRatio : Word := 0x3EE66666

/-- TWO_PI32 (R9). -/
def twoPi : Word := 0x40C90FDB

/-- The cutoff COEF designs at: `clamp32(fc, FC_MIN, FC_MAX_RATIO * fs)` (R145). -/
def designCutoff (fc fs : Word) : Word := F32.clamp fc fcMin (F32.mul fcMaxRatio fs)

/-- The coefficient COEF designs for cutoff `fcc` (R145): the RC form for HP, `1 - EXP(-(w / fs))` for the others. -/
def designCoef (u : UnitName) (fcc fs : Word) : Word :=
  let w := F32.mul twoPi fcc
  if u = .hp then F32.div w (F32.add w fs)
  else F32.sub F32.one (F32.exp (F32.neg (F32.div w fs)))

/-- The parameter COEF writes (R145). -/
def designIdx (u : UnitName) : Nat := if u = .ds then 2 else 0

/-- COEF (R145). -/
def execCoef (ra : Reg) (u : UnitName) (inst : InstNo) (s : State) : Result :=
  if coefUnit u = false then .next (s.reject .badUnit)
  else if s.count u ≤ inst.toNat then .next (s.reject .badInstance)
  else
    let fc := s.freg ra
    if F32.isNaN fc then .next (s.setFlags pnanMask)
    else
      let fcc := designCutoff fc s.fs
      .next ((s.setFlagIf (!F32.eq fcc fc) pclampMask).paramWrite u inst.toNat (designIdx u) (designCoef u fcc s.fs))

end Sys2Proof.Machine
end

