-- ==== Sys2Proof/Machine/DelayLine.lean ====
section
/-! DEFINITION. The delay-line commands (43_delay_line.md). -/

namespace Sys2Proof.Machine

/-- DL.WR (R221): no data register is written. -/
def execDlWr (ra : Reg) (inst : InstNo) (s : State) : Result :=
  match s.dl[inst.toNat]? with
  | none => .next (s.reject .badInstance)
  | some u =>
    let x := s.freg ra
    .next ((s.setDl inst { u with ring := bufWrite u.ring x }).stickyNV [x])

/-- DL.RD (R222): the state and the buffer are not changed. -/
def execDlRd (rd ra : Reg) (inst : InstNo) (s : State) : Result :=
  match s.dl[inst.toNat]? with
  | none => .next (s.reject .badInstance)
  | some u =>
    let dly := s.freg ra
    let y := fracRead u.ring dly
    .next (s.result [dly, y] rd y)

end Sys2Proof.Machine
end

