-- ==== Sys2Proof/Machine/DistortionRotary.lean ====
section
/-! DEFINITION. The step commands of DS, XO, MD and NCO (44_distortion_rotary.md). -/

namespace Sys2Proof.Machine

/-- DS.STEP (R241). DEDUCED (log 24): where `gain * x` or `k * u` is `0 * inf` the pseudocode gives QNAN, which enters the
state, against the bound and the `±0.0` that the Corner cases of R241 and R190 give in words. -/
def execDsStep (rd ra : Reg) (inst : InstNo) (s : State) : Result :=
  match s.ds[inst.toNat]? with
  | none => .next (s.reject .badInstance)
  | some u =>
    let x := s.freg ra
    let v := atanShaper (F32.mul u.k (F32.mul u.gain x))
    let lp := onePole u.lp u.a v
    let y := F32.sub v lp
    .next ((s.setDs inst { u with lp := lp }).result [x, lp, y] rd y)

/-- XO.STEP (R242): the low band to `d[rd]`, the high band to `d[rd + 1]`; an odd rd rejects the command, checked after
the instance (R105). DEDUCED (log 25): with `a = 1.0` the high band is `x - lp` of the pseudocode, which is `-0.0` for a
`-0.0` input from reset and not zero where `x - lp` was inexact, against "`hi = +0.0` for finite `x`" of R242. -/
def execXoStep (rd ra : Reg) (inst : InstNo) (s : State) : Result :=
  match s.xo[inst.toNat]? with
  | none => .next (s.reject .badInstance)
  | some u =>
    if rd.toNat % 2 = 1 then .next (s.reject .badPair)
    else
      let x := s.freg ra
      let lp := onePole u.lp u.a x
      let hi := F32.sub x lp
      .next (((s.setXo inst { u with lp := lp }).result [x, lp, hi] rd lp).writeReg (rd + 1) hi)

/-- COS2PI of the microphone angle `frac32(phi + off)` (R243). DEDUCED (log 23): 70_reset_and_hazards.md R354 wants a zero
output of a silent MD for every finite phase; where `phi + off` overflows, the pseudocode of R243 gives `frac32` of an
infinity, QNAN (R17), and the pseudocode is followed. -/
def micCos (u : Md) (phi : Word) : Word := F32.cos2pi (F32.fract (F32.add phi u.off))

/-- The Doppler delay `base - swing * c` (R243). -/
def dopplerDelay (u : Md) (phi : Word) : Word := F32.sub u.base (F32.mul u.swing (micCos u phi))

/-- The AM gain `1.0 - am * (0.5 * (1.0 - c))` (R243). -/
def amGain (u : Md) (phi : Word) : Word :=
  F32.sub F32.one (F32.mul u.am (F32.mul F32.half (F32.sub F32.one (micCos u phi))))

/-- The DL instance MD reads: `int(dlsel)` (R243). -/
def mdSelect (u : Md) : Nat := (F32.toInt u.dlsel).toNat

/-- MD.STEP (R243): no state is changed. A dlsel that names no DL instance cannot arise (class IDXDL, R40). DESIGN
CHOICE (log 13): in a state where it does, the command is rejected like any other missing instance. -/
def execMdStep (rd ra : Reg) (inst : InstNo) (s : State) : Result :=
  match s.md[inst.toNat]? with
  | none => .next (s.reject .badInstance)
  | some u =>
    match s.dl[mdSelect u]? with
    | none => .next (s.reject .badInstance)
    | some line =>
      let phi := s.freg ra
      let y := F32.mul (amGain u phi) (fracRead line.ring (dopplerDelay u phi))
      .next (s.result [phi, y] rd y)

/-- NCO.STEP (R244): the output is the phase after the advance. DEDUCED (log 28): an infinite target makes `f` infinite
first, and `c = 1.0` or `c = 0` gives what the recursion gives, where the Corner cases say NaN, snaps and freezes. A finite
target whose difference from a finite `f` overflows makes `f` infinite and `ph` QNAN, against "in [0,1) for finite inputs"
of 10_state.md R70. -/
def execNcoStep (rd ra : Reg) (inst : InstNo) (s : State) : Result :=
  match s.nco[inst.toNat]? with
  | none => .next (s.reject .badInstance)
  | some u =>
    let ft := s.freg ra
    let f := onePole u.f u.c ft
    let ph := F32.fract (F32.add u.ph (F32.div f s.fs))
    .next ((s.setNco inst { u with f := f, ph := ph }).result [ft, f, ph] rd ph)

end Sys2Proof.Machine
end

