-- ==== Sys2Proof/Machine/Granular.lean ====
section
/-! DEFINITION. The step command of GP (46_granular.md). -/

namespace Sys2Proof.Machine

/-- The Hann weight of a grain of phase `p` (R301). -/
def hann (p : Word) : Word := F32.mul F32.half (F32.sub F32.one (F32.cos2pi p))

/-- One turn of the grain loop of R301: `num` and `den` after the grain of phase `p`. -/
def grain (b : Ring) (glen : Word) (acc : Word × Word) (p : Word) : Word × Word :=
  let win := hann p
  let v := fracRead b (F32.add F32.one (F32.mul p glen))
  (F32.add acc.1 (F32.mul win v), F32.add acc.2 win)

/-- The weighted sum of the four grains normalized by the sum of weights (R301), over the buffer that already holds the
input. DEDUCED (log 31): each operation rounds and can overflow, so a constant input comes back changed at the ends of the
range, against property 1 of R302. -/
def grainMix (u : Gp) (b : Ring) : Word :=
  let acc := [u.p0, u.p1, u.p2, u.p3].foldl (grain b u.glen) (F32.zero, F32.zero)
  if F32.lt F32.zero acc.2 then F32.div acc.1 acc.2 else F32.zero

/-- The time-warp step `(1.0 - ratio) / glen`, turns per sample (R301). -/
def timeWarp (u : Gp) : Word := F32.div (F32.sub F32.one u.ratio) u.glen

/-- The phase of a grain after the step (R301). DEDUCED (log 29): a step too small for the binary32 spacing at a
phase leaves it where it is, at 0 or elsewhere (00_scope.md R14, R17), while the others move, so the phases need not stay
quarter-spaced nor wrap, and the sum of weights need not stay near 2, as R301 says. -/
def advance (u : Gp) (p : Word) : Word := F32.fract (F32.add p (timeWarp u))

/-- GP.STEP (R301): the input is written first; the phases move after the grains are read. -/
def execGpStep (rd ra : Reg) (inst : InstNo) (s : State) : Result :=
  match s.gp[inst.toNat]? with
  | none => .next (s.reject .badInstance)
  | some u =>
    let x := s.freg ra
    let b := bufWrite u.ring x
    let y := grainMix u b
    .next ((s.setGp inst { u with ring := b, p0 := advance u u.p0, p1 := advance u u.p1, p2 := advance u u.p2,
                                  p3 := advance u u.p3 }).result [x, y] rd y)

end Sys2Proof.Machine
end

