-- ==== Sys2Proof/Machine/Octave.lean ====
section
/-! DEFINITION. The step commands of ENV and ZC (45_octave.md). -/

namespace Sys2Proof.Machine

/-- The new envelope (R271): attack where `|x| > e`, release otherwise. DEDUCED (log 20): an infinite envelope gives QNAN at
the next non-NaN input, the tie with an infinite input included, against the Corner cases of R271. -/
def envelope (u : Env) (x : Word) : Word :=
  let m := F32.abs x
  onePole u.e (if F32.lt u.e m then u.att else u.rel) m

/-- ENV.STEP (R271). -/
def execEnvStep (rd ra : Reg) (inst : InstNo) (s : State) : Result :=
  match s.env[inst.toNat]? with
  | none => .next (s.reject .badInstance)
  | some u =>
    let x := s.freg ra
    let e := envelope u x
    .next ((s.setEnv inst { u with e := e }).result [x, e] rd e)

/-- CNT_MAX = 2^24 (R9). -/
def cntMax : Nat := 2 ^ 24

/-- R272 phase 1: the gate with hysteresis and hang. -/
def zcGate (z : Zc) (env : Word) : Zc :=
  if F32.lt z.thOn env then { z with locked := true, hang := (F32.toInt z.hangLen).toNat }
  else if F32.lt env z.thOff then
    if 0 < z.hang then { z with hang := z.hang - 1 } else { z with locked := false }
  else z

/-- R272 phase 2: the period counter, saturating. -/
def zcCount (z : Zc) : Zc := if z.cnt < cntMax then { z with cnt := z.cnt + 1 } else z

/-- R272 phase 3: does the Schmitt trigger fire on a positive crossing? -/
def zcCross (z : Zc) (x : Word) : Bool := !z.pos && F32.lt z.hyst x

/-- R272 phase 3: the trigger's new side. -/
def zcTrigger (z : Zc) (x : Word) : Zc :=
  if zcCross z x then { z with pos := true }
  else if z.pos && F32.lt x (F32.neg z.hyst) then { z with pos := false }
  else z

/-- R272 phase 4: octave folding of a candidate near twice or half the estimate `f`. -/
def zcFold (z : Zc) (cand : Word) : Word :=
  let dbl := F32.mul F32.two z.f
  let hlf := F32.mul F32.half z.f
  if F32.le (F32.abs (F32.sub cand dbl)) (F32.mul z.foldTol dbl) then F32.mul F32.half cand
  else if F32.le (F32.abs (F32.sub cand hlf)) (F32.mul z.foldTol hlf) then F32.mul F32.two cand
  else cand

/-- R272 phase 4: the jump limit. -/
def zcJump (z : Zc) (cand : Word) : Word :=
  F32.clamp cand (F32.mul z.f (F32.sub F32.one z.maxJump)) (F32.mul z.f (F32.add F32.one z.maxJump))

/-- R272: a smoothed move of the estimate toward `target`, kept in [f_min, f_max]. -/
def zcMove (z : Zc) (k target : Word) : Word := F32.clamp (onePole z.f k target) z.fMin z.fMax

/-- R272 phase 4: the new estimate from the candidate `fs / f32(period)`; one out of range is rejected. -/
def zcTrack (z : Zc) (cand : Word) : Zc :=
  if F32.le z.fMin cand && F32.le cand z.fMax then
    { z with f := zcMove z z.smooth (zcJump z (zcFold z cand)) }
  else z

/-- R272 phase 4: on a positive crossing the counter restarts, and a locked tracker takes the candidate. -/
def zcOnCross (z : Zc) (fs : Word) (cross : Bool) : Zc :=
  if cross then
    let cand := F32.div fs (F32.ofInt z.cnt)
    let z₁ := { z with cnt := 0 }
    if z₁.locked then zcTrack z₁ cand else z₁
  else z

/-- R272 phase 5: idle drift while unlocked. -/
def zcDrift (z : Zc) : Zc := if z.locked then z else { z with f := zcMove z z.drift z.fIdle }

/-- The five phases of R272, in order. -/
def zcStep (z : Zc) (fs x env : Word) : Zc :=
  let z₂ := zcCount (zcGate z env)
  zcDrift (zcOnCross (zcTrigger z₂ x) fs (zcCross z₂ x))

/-- ZC.STEP (R272): x in ra, the gate level in rb. -/
def execZcStep (rd ra rb : Reg) (inst : InstNo) (s : State) : Result :=
  match s.zc[inst.toNat]? with
  | none => .next (s.reject .badInstance)
  | some u =>
    let x := s.freg ra
    let env := s.freg rb
    let u' := zcStep u s.fs x env
    .next ((s.setZc inst u').result [x, env, u'.f] rd u'.f)

end Sys2Proof.Machine
end

