-- ==== Sys2Proof/Machine/Primitives.lean ====
section
/-! DEFINITION. The step commands of LP, HP, DC, LI, SC and BQ (42_primitives.md). Inputs, parameters and state are read
before anything is written; an instance the block does not have rejects the command (R190). -/

namespace Sys2Proof.Machine

/-- LP.STEP (R191). -/
def execLpStep (rd ra : Reg) (inst : InstNo) (s : State) : Result :=
  match s.lp[inst.toNat]? with
  | none => .next (s.reject .badInstance)
  | some u =>
    let x := s.freg ra
    let y := onePole u.y u.a x
    .next ((s.setLp inst { u with y := y }).result [x, y] rd y)

/-- HP.STEP (R192). DEDUCED (log 25): with `a = 1.0` the output is `x - lp` of the pseudocode, `-0.0` for a `-0.0` input
from reset and not zero where the step was inexact, against "`y = x − x = +0.0` for finite `x`" of R192. -/
def execHpStep (rd ra : Reg) (inst : InstNo) (s : State) : Result :=
  match s.hp[inst.toNat]? with
  | none => .next (s.reject .badInstance)
  | some u =>
    let x := s.freg ra
    let lp := onePole u.lp u.a x
    let y := F32.sub x lp
    .next ((s.setHp inst { u with lp := lp }).result [x, lp, y] rd y)

/-- DC.STEP (R193). DEDUCED (log 27): with `R = 0` an infinite old output still makes `R * y1` QNAN. -/
def execDcStep (rd ra : Reg) (inst : InstNo) (s : State) : Result :=
  match s.dc[inst.toNat]? with
  | none => .next (s.reject .badInstance)
  | some u =>
    let x := s.freg ra
    let y := F32.add (F32.sub x u.x1) (F32.mul u.r u.y1)
    .next ((s.setDc inst { u with x1 := x, y1 := y }).result [x, y] rd y)

/-- LI.STEP (R194): x in ra, the fraction t in rb. -/
def execLiStep (rd ra rb : Reg) (inst : InstNo) (s : State) : Result :=
  match s.li[inst.toNat]? with
  | none => .next (s.reject .badInstance)
  | some u =>
    let x := s.freg ra
    let t := s.freg rb
    let y := F32.lerp u.prev x t
    .next ((s.setLi inst { u with prev := x }).result [x, t, y] rd y)

/-- The clipped value `u / (1.0 + |u|)` (R195). -/
def softClip (u : Word) : Word := F32.div u (F32.add F32.one (F32.abs u))

/-- SC.STEP (R195): no state. DEDUCED (log 26): the blend is the formula also where the Corner cases of R195 say that
`mix = 0` gives `x` and `mix = 1` gives `c`. -/
def execScStep (rd ra : Reg) (inst : InstNo) (s : State) : Result :=
  match s.sc[inst.toNat]? with
  | none => .next (s.reject .badInstance)
  | some u =>
    let x := s.freg ra
    let y := F32.lerp x (softClip (F32.mul x u.drive)) u.mix
    .next (s.result [x, y] rd y)

/-- The accumulator of the biquad, in the order of R196. -/
def biquad (u : Bq) (x : Word) : Word :=
  let acc := F32.mul u.b0 x
  let acc := F32.add acc (F32.mul u.b1 u.x1)
  let acc := F32.add acc (F32.mul u.b2 u.x2)
  let acc := F32.sub acc (F32.mul u.a1 u.y1)
  F32.sub acc (F32.mul u.a2 u.y2)

/-- BQ.STEP (R196). DEDUCED (log 27): the power-on coefficients are applied as any others, so an infinity or the sign of a
zero in the history shows in the output. -/
def execBqStep (rd ra : Reg) (inst : InstNo) (s : State) : Result :=
  match s.bq[inst.toNat]? with
  | none => .next (s.reject .badInstance)
  | some u =>
    let x := s.freg ra
    let acc := biquad u x
    .next ((s.setBq inst { u with x2 := u.x1, x1 := x, y2 := u.y1, y1 := acc }).result [x, acc] rd acc)

end Sys2Proof.Machine
end

