-- ==== Sys2Proof/Machine/Scalar.lean ====
section
/-! DEFINITION. The scalar commands (41_scalar.md). All sources are read before `d[rd]` is written (R160). -/

namespace Sys2Proof.Machine

/-- LDHI (R161). -/
def execLdhi (rd : Reg) (imm : Imm16) (s : State) : Result := .next (s.writeReg rd (imm ++ (0 : BitVec 16)))

/-- ORLO (R162). -/
def execOrlo (rd : Reg) (imm : Imm16) (s : State) : Result :=
  .next (s.writeReg rd (s.reg rd ||| imm.zeroExtend 32))

/-- MOV (R163): bit for bit, no flag. -/
def execMov (rd ra : Reg) (s : State) : Result := .next (s.writeReg rd (s.reg ra))

/-- FADD (R164). -/
def execFadd (rd ra rb : Reg) (s : State) : Result :=
  let y := F32.add (s.freg ra) (s.freg rb)
  .next (s.result [s.freg ra, s.freg rb, y] rd y)

/-- FSUB (R165). -/
def execFsub (rd ra rb : Reg) (s : State) : Result :=
  let y := F32.sub (s.freg ra) (s.freg rb)
  .next (s.result [s.freg ra, s.freg rb, y] rd y)

/-- FMUL (R166). -/
def execFmul (rd ra rb : Reg) (s : State) : Result :=
  let y := F32.mul (s.freg ra) (s.freg rb)
  .next (s.result [s.freg ra, s.freg rb, y] rd y)

/-- CLAMP (R167): x in ra, lo in rb, hi in rc. -/
def execClamp (rd ra rb rc : Reg) (s : State) : Result :=
  let y := F32.clamp (s.freg ra) (s.freg rb) (s.freg rc)
  .next (s.result [s.freg ra, s.freg rb, s.freg rc, y] rd y)

/-- LERP (R168): a in ra, b in rb, t in rc. -/
def execLerp (rd ra rb rc : Reg) (s : State) : Result :=
  let y := F32.lerp (s.freg ra) (s.freg rb) (s.freg rc)
  .next (s.result [s.freg ra, s.freg rb, s.freg rc, y] rd y)

/-- SAT.ATAN (R169): x in ra, k in rb. DEDUCED (log 24): `k = 0` with an infinite x is `0 * inf`, QNAN. -/
def execSatAtan (rd ra rb : Reg) (s : State) : Result :=
  let y := atanShaper (F32.mul (s.freg rb) (s.freg ra))
  .next (s.result [s.freg ra, s.freg rb, y] rd y)

/-- SAT.TANH (R170). DEDUCED (log 24): `k = 0` with an infinite x is `0 * inf`, QNAN. -/
def execSatTanh (rd ra rb : Reg) (s : State) : Result :=
  let y := F32.tanh (F32.mul (s.freg rb) (s.freg ra))
  .next (s.result [s.freg ra, s.freg rb, y] rd y)

/-- SIN2PI (R171). -/
def execSin2pi (rd ra : Reg) (s : State) : Result :=
  let y := F32.sin2pi (s.freg ra)
  .next (s.result [s.freg ra, y] rd y)

/-- COS2PI (R172). -/
def execCos2pi (rd ra : Reg) (s : State) : Result :=
  let y := F32.cos2pi (s.freg ra)
  .next (s.result [s.freg ra, y] rd y)

/-- 32768.0, the scale of the symmetric conversions and of negative samples (R173). -/
def scale32768 : Word := 0x47000000

/-- 32767.0, the scale of non-negative samples in the asymmetric conversions (R174). -/
def scale32767 : Word := 0x46FFFE00

/-- -32768.0, the lower end of the final clamp (R175). -/
def sampleMin : Word := 0xC7000000

/-- CVTIF.SYM (R173). -/
def execCvtifSym (rd ra : Reg) (s : State) : Result :=
  .next (s.writeReg rd (F32.div (F32.ofInt (s.sample ra)) scale32768))

/-- CVTIF.ASYM (R174). -/
def execCvtifAsym (rd ra : Reg) (s : State) : Result :=
  let n := s.sample ra
  .next (s.writeReg rd (F32.div (F32.ofInt n) (if 0 ≤ n then scale32767 else scale32768)))

/-- The clamped scaled value of R175 and R176. -/
def sampleClamp (v : Word) : Word := F32.clamp v sampleMin scale32767

/-- `sext_32(n[15:0])` with `n = int(trunc32(c))` (R175). -/
def sampleWord (c : Word) : Word := (BitVec.ofInt 16 (F32.toInt (F32.trunc c))).signExtend 32

/-- The common end of CVTFI: the final clamp, OCLAMP, truncation (R175, R176). -/
def State.writeSample (s : State) (rd : Reg) (v : Word) : State :=
  (s.setFlagIf (!F32.eq (sampleClamp v) v) oclampMask).writeReg rd (sampleWord (sampleClamp v))

/-- CVTFI.SYM (R175): a NaN gives 0 and sets NV. -/
def execCvtfiSym (rd ra : Reg) (s : State) : Result :=
  let x := s.freg ra
  if F32.isNaN x then .next (s.result [x] rd 0)
  else .next (s.writeSample rd (F32.mul x scale32768))

/-- CVTFI.ASYM (R176). -/
def execCvtfiAsym (rd ra : Reg) (s : State) : Result :=
  let x := s.freg ra
  if F32.isNaN x then .next (s.result [x] rd 0)
  else .next (s.writeSample rd (F32.mul x (if F32.le F32.zero x then scale32767 else scale32768)))

end Sys2Proof.Machine
end

