-- ==== Sys2Proof/Machine/Dispatch.lean ====
section
/-! DEFINITION. The meaning of every command, one arm for each row of 30_encoding.md R106. -/

namespace Sys2Proof.Machine

def exec (i : Instr) (s : State) : Host.Outcome State Fault Refusal :=
  match i with
  | .nop => Sys2Proof.Machine.execNop s
  | .rst u inst => Sys2Proof.Machine.execRst u inst s
  | .setp ra u inst idx => Sys2Proof.Machine.execSetp ra u inst idx s
  | .getp rd u inst idx => Sys2Proof.Machine.execGetp rd u inst idx s
  | .gets rd u inst idx => Sys2Proof.Machine.execGets rd u inst idx s
  | .coef ra u inst => Sys2Proof.Machine.execCoef ra u inst s
  | .ldhi rd imm => Sys2Proof.Machine.execLdhi rd imm s
  | .orlo rd imm => Sys2Proof.Machine.execOrlo rd imm s
  | .mov rd ra => Sys2Proof.Machine.execMov rd ra s
  | .fadd rd ra rb => Sys2Proof.Machine.execFadd rd ra rb s
  | .fsub rd ra rb => Sys2Proof.Machine.execFsub rd ra rb s
  | .fmul rd ra rb => Sys2Proof.Machine.execFmul rd ra rb s
  | .clamp rd ra rb rc => Sys2Proof.Machine.execClamp rd ra rb rc s
  | .lerp rd ra rb rc => Sys2Proof.Machine.execLerp rd ra rb rc s
  | .satAtan rd ra rb => Sys2Proof.Machine.execSatAtan rd ra rb s
  | .satTanh rd ra rb => Sys2Proof.Machine.execSatTanh rd ra rb s
  | .sin2pi rd ra => Sys2Proof.Machine.execSin2pi rd ra s
  | .cos2pi rd ra => Sys2Proof.Machine.execCos2pi rd ra s
  | .cvtifSym rd ra => Sys2Proof.Machine.execCvtifSym rd ra s
  | .cvtifAsym rd ra => Sys2Proof.Machine.execCvtifAsym rd ra s
  | .cvtfiSym rd ra => Sys2Proof.Machine.execCvtfiSym rd ra s
  | .cvtfiAsym rd ra => Sys2Proof.Machine.execCvtfiAsym rd ra s
  | .bqStep rd ra inst => Sys2Proof.Machine.execBqStep rd ra inst s
  | .lpStep rd ra inst => Sys2Proof.Machine.execLpStep rd ra inst s
  | .hpStep rd ra inst => Sys2Proof.Machine.execHpStep rd ra inst s
  | .scStep rd ra inst => Sys2Proof.Machine.execScStep rd ra inst s
  | .dlWr ra inst => Sys2Proof.Machine.execDlWr ra inst s
  | .dlRd rd ra inst => Sys2Proof.Machine.execDlRd rd ra inst s
  | .dcStep rd ra inst => Sys2Proof.Machine.execDcStep rd ra inst s
  | .liStep rd ra rb inst => Sys2Proof.Machine.execLiStep rd ra rb inst s
  | .dsStep rd ra inst => Sys2Proof.Machine.execDsStep rd ra inst s
  | .xoStep rd ra inst => Sys2Proof.Machine.execXoStep rd ra inst s
  | .mdStep rd ra inst => Sys2Proof.Machine.execMdStep rd ra inst s
  | .ncoStep rd ra inst => Sys2Proof.Machine.execNcoStep rd ra inst s
  | .zcStep rd ra rb inst => Sys2Proof.Machine.execZcStep rd ra rb inst s
  | .envStep rd ra inst => Sys2Proof.Machine.execEnvStep rd ra inst s
  | .gpStep rd ra inst => Sys2Proof.Machine.execGpStep rd ra inst s

end Sys2Proof.Machine
end

