-- ==== Sys2Proof/Machine/Bus.lean ====
section
/-! DEFINITION. The host bus: the address map of 20_memory.md R87, the checks of R86, and what one bus event does
(R88, R89). -/

namespace Sys2Proof.Machine

/-- The identity constant (10_state.md R37). -/
def idWord : Word := 0x44535031

/-- The data register at an address below 0x040 (R87). -/
def dataRegAt (addr : Nat) : Reg := BitVec.ofNat 4 (addr / 4)

/-- A write of `w` to CMD (R89): the whole command, or its rejection, before the write completes. -/
def runCommand (w : Word) (s : State) : Result :=
  match decode w with
  | .ok i => exec i s
  | .error c => .next (s.reject c)

/-- `MemRead(addr, 4)` (R87, R88): no side effect on the block. -/
def busRead (s : State) (addr : Nat) : Word :=
  if addr < 0x040 then s.reg (dataRegAt addr)
  else if addr = 0x044 then s.readStatus
  else if addr = 0x048 then idWord
  else 0

/-- `MemWrite(addr, 4, v)` (R87, R88). -/
def busWrite (addr : Nat) (v : Word) (s : State) : Result :=
  if addr < 0x040 then .next (s.writeReg (dataRegAt addr) v)
  else if addr = 0x040 then runCommand v s
  else if addr = 0x044 then .next (s.writeStatus v)
  else .next s

/-- R86: the access is performed only if it is aligned and 4 bytes wide. -/
def performed (addr width : Nat) : Bool := addr % 4 == 0 && width == 4

/-- What an access comes to that passes the address and alignment checks (R80, R86). -/
def checkAccess (addr width : Nat) (r : Result) : Result :=
  if 0x1000 ≤ addr then .fault (.outsideWindow addr)
  else if performed addr width then r
  else .refused (.unperformedAccess addr width)

/-- One bus event. Power-on reset keeps the configuration and the events still to come (R335, R352, log 15). -/
def busEvent (e : BusEvent) (s : State) : Result :=
  match e with
  | .read addr width => checkAccess addr width (.next { s with readData := busRead s addr })
  | .write addr width data => checkAccess addr width (busWrite addr data s)
  | .powerCycle => .next { powerOn s.config with bus := s.bus }

/-- The machine performs the oldest pending event; between host accesses it does nothing (60_exceptions.md R335). -/
def busStep (s : State) : Result :=
  match s.bus with
  | [] => .next s
  | e :: rest => busEvent e { s with bus := rest }

end Sys2Proof.Machine
end

