-- ==== Sys2Proof/Machine/Step.lean ====
section
/-! DEFINITION. One step: one bus event, indivisible (70_reset_and_hazards.md R360; log 3). -/

namespace Sys2Proof.Machine

def step (s : State) : Host.Outcome State Fault Refusal := busStep s

/-- `s` with the command word `w` as the next host access: a 4-byte write to CMD, before what was pending (log 3). The
block fetches nothing (R33, R93): the host's write is how a command comes to run. -/
def State.withFetchWord (s : State) (nbits w : Nat) : State :=
  { s with bus := .write 0x040 4 (BitVec.ofNat 32 (w % 2 ^ nbits)) :: s.bus }

end Sys2Proof.Machine
end

