-- ==== Sys2Proof/Safety.lean ====
section
/-! DEFINITION. The terms the claims use: when a command is rejected, which registers it reads, which runs read a
register nothing has written (10_state.md R32), and the invariants of the state. -/

namespace Sys2Proof.Machine

/-! ## Rejection (30_encoding.md R105, checks 3 to 6) -/

/-- Check 4 on instance `inst` of unit `u`. -/
def instanceCheck (s : State) (u : UnitName) (inst : InstNo) : Option Cause :=
  if s.count u ≤ inst.toNat then some .badInstance else none

/-- Checks 3, 4 and 5 of SETP, GETP and GETS, with the count the index is checked against. -/
def bankCheck (s : State) (u : UnitName) (inst : InstNo) (idx : Idx) (n : Nat) : Option Cause :=
  if u = .all then some .badUnit
  else if s.count u ≤ inst.toNat then some .badInstance
  else if n ≤ idx.toNat then some .badIndex
  else none

/-- The cause that rejects a decoded command in state `s`, by the first check that fails; none if it executes. -/
def rejectCause (s : State) : Instr → Option Cause
  | .nop => none
  | .rst u i => instanceCheck s u i
  | .setp _ u i x => bankCheck s u i x (paramCount u)
  | .getp _ u i x => bankCheck s u i x (paramCount u)
  | .gets _ u i x => bankCheck s u i x (stateCount u)
  | .coef _ u i => if coefUnit u then instanceCheck s u i else some .badUnit
  | .ldhi _ _ => none
  | .orlo _ _ => none
  | .mov _ _ => none
  | .fadd _ _ _ => none
  | .fsub _ _ _ => none
  | .fmul _ _ _ => none
  | .clamp _ _ _ _ => none
  | .lerp _ _ _ _ => none
  | .satAtan _ _ _ => none
  | .satTanh _ _ _ => none
  | .sin2pi _ _ => none
  | .cos2pi _ _ => none
  | .cvtifSym _ _ => none
  | .cvtifAsym _ _ => none
  | .cvtfiSym _ _ => none
  | .cvtfiAsym _ _ => none
  | .bqStep _ _ i => instanceCheck s .bq i
  | .lpStep _ _ i => instanceCheck s .lp i
  | .hpStep _ _ i => instanceCheck s .hp i
  | .scStep _ _ i => instanceCheck s .sc i
  | .dlWr _ i => instanceCheck s .dl i
  | .dlRd _ _ i => instanceCheck s .dl i
  | .dcStep _ _ i => instanceCheck s .dc i
  | .liStep _ _ _ i => instanceCheck s .li i
  | .dsStep _ _ i => instanceCheck s .ds i
  | .xoStep rd _ i => (instanceCheck s .xo i).or (if rd.toNat % 2 = 1 then some .badPair else none)
  | .mdStep _ _ i => instanceCheck s .md i
  | .ncoStep _ _ i => instanceCheck s .nco i
  | .zcStep _ _ _ i => instanceCheck s .zc i
  | .envStep _ _ i => instanceCheck s .env i
  | .gpStep _ _ i => instanceCheck s .gp i

/-- The table of 60_exceptions.md R321: the code that CAUSE takes. -/
def codeOfCause : Cause → BitVec 4
  | .illegalOpcode => 1
  | .reservedField => 2
  | .badUnit => 3
  | .badInstance => 4
  | .badIndex => 5
  | .badPair => 6

/-- What a rejection for cause `c` does (60_exceptions.md R322): ILL (bit 0) is set, CAUSE (bits 11:8) takes the code of
`c` if ILL was 0, and nothing else changes, in STATUS or anywhere else. -/
abbrev rejectedWith (c : Cause) (s t : State) : Prop :=
  t.status.getLsbD 0 = true ∧
  t.status.extractLsb' 8 4 = (if s.status.getLsbD 0 then s.status.extractLsb' 8 4 else codeOfCause c) ∧
  t.status &&& 0xFFFFF0FE = s.status &&& 0xFFFFF0FE ∧ { s with status := t.status } = t

/-- The commands of a list, one after the other, each by its meaning. -/
def runAll : List Instr → State → Result
  | [], s => .next s
  | i :: rest, s =>
    match exec i s with
    | .next t => runAll rest t
    | .fault r => .fault r
    | .refused r => .refused r

/-! ## Registers read (10_state.md R31) -/

/-- The data registers a command that executes reads: its source fields, and rd for ORLO (R162). -/
def sources : Instr → List Reg
  | .nop => []
  | .rst _ _ => []
  | .setp ra _ _ _ => [ra]
  | .getp _ _ _ _ => []
  | .gets _ _ _ _ => []
  | .coef ra _ _ => [ra]
  | .ldhi _ _ => []
  | .orlo rd _ => [rd]
  | .mov _ ra => [ra]
  | .fadd _ ra rb => [ra, rb]
  | .fsub _ ra rb => [ra, rb]
  | .fmul _ ra rb => [ra, rb]
  | .clamp _ ra rb rc => [ra, rb, rc]
  | .lerp _ ra rb rc => [ra, rb, rc]
  | .satAtan _ ra rb => [ra, rb]
  | .satTanh _ ra rb => [ra, rb]
  | .sin2pi _ ra => [ra]
  | .cos2pi _ ra => [ra]
  | .cvtifSym _ ra => [ra]
  | .cvtifAsym _ ra => [ra]
  | .cvtfiSym _ ra => [ra]
  | .cvtfiAsym _ ra => [ra]
  | .bqStep _ ra _ => [ra]
  | .lpStep _ ra _ => [ra]
  | .hpStep _ ra _ => [ra]
  | .scStep _ ra _ => [ra]
  | .dlWr ra _ => [ra]
  | .dlRd _ ra _ => [ra]
  | .dcStep _ ra _ => [ra]
  | .liStep _ ra rb _ => [ra, rb]
  | .dsStep _ ra _ => [ra]
  | .xoStep _ ra _ => [ra]
  | .mdStep _ ra _ => [ra]
  | .ncoStep _ ra _ => [ra]
  | .zcStep _ ra rb _ => [ra, rb]
  | .envStep _ ra _ => [ra]
  | .gpStep _ ra _ => [ra]

/-- R32, 93_implementation_defined.md I1: the next bus event reads a data register that nothing has written since
power-on, by a host read or as an operand of a command that executes. A fault of the host program, not of the block. -/
def readsUnwritten (s : State) : Bool :=
  match s.bus with
  | .read addr width :: _ => performed addr width && decide (addr < 0x040) && !s.isWritten (dataRegAt addr)
  | .write addr width w :: _ =>
    performed addr width && decide (addr = 0x040) &&
      (match decode w with
        | .ok i => (rejectCause s i).isNone && (sources i).any fun r => !s.isWritten r
        | .error _ => false)
  | _ => false

/-- A run of `n` steps that stops nowhere and never reads an unwritten register. -/
def safeRun : Nat → State → Bool
  | 0, _ => true
  | n + 1, s => !readsUnwritten s && (match step s with | .next t => safeRun n t | _ => false)

/-- The two states differ at most in the contents of data registers that nothing has written. -/
abbrev AgreeOnWritten (s t : State) : Prop :=
  { s with d := t.d } = t ∧ ∀ r : Reg, s.isWritten r = true → s.reg r = t.reg r

/-- Two outcomes of the same kind, their states agreeing on the written registers. -/
def outcomesAgree : Result → Result → Prop
  | .next s, .next t => AgreeOnWritten s t
  | .fault a, .fault b => a = b
  | .refused a, .refused b => a = b
  | _, _ => False

/-! ## Frames: what a command leaves as it was -/

/-- No data register outside `rs` changes, in contents or in being written. -/
abbrev regsKept (rs : List Reg) (s t : State) : Prop :=
  ∀ r : Reg, r ∉ rs → t.reg r = s.reg r ∧ t.isWritten r = s.isWritten r

/-- The register holds `v` and counts as written. -/
abbrev holds (t : State) (r : Reg) (v : Word) : Prop := t.reg r = v ∧ t.isWritten r = true

/-- FS and every bank and buffer of a unit outside `us` are as before. -/
abbrev banksKept (us : List UnitName) (s t : State) : Prop :=
  (.global ∉ us → t.fs = s.fs) ∧
  (.bq ∉ us → t.bq = s.bq) ∧
  (.lp ∉ us → t.lp = s.lp) ∧
  (.hp ∉ us → t.hp = s.hp) ∧
  (.sc ∉ us → t.sc = s.sc) ∧
  (.dl ∉ us → t.dl = s.dl) ∧
  (.dc ∉ us → t.dc = s.dc) ∧
  (.li ∉ us → t.li = s.li) ∧
  (.ds ∉ us → t.ds = s.ds) ∧
  (.xo ∉ us → t.xo = s.xo) ∧
  (.md ∉ us → t.md = s.md) ∧
  (.nco ∉ us → t.nco = s.nco) ∧
  (.zc ∉ us → t.zc = s.zc) ∧
  (.env ∉ us → t.env = s.env) ∧
  (.gp ∉ us → t.gp = s.gp)

/-- The pending events and the last word read are as before. -/
abbrev busKept (s t : State) : Prop := t.bus = s.bus ∧ t.readData = s.readData

/-- `l'` is `l` with entry `i` replaced by `u` and every other entry as before. -/
abbrev replaced (l : List α) (i : Nat) (u : α) (l' : List α) : Prop :=
  l'.length = l.length ∧ l'[i]? = some u ∧ ∀ j, j ≠ i → l'[j]? = l[j]?

/-- The bits StickyNV of `xs` adds to STATUS (10_state.md R34, R36). -/
def nvBits (xs : List Word) : Word := if xs.any F32.isNaN then 0x00000002 else 0x00000000

/-- A bit of STATUS that a condition adds. -/
def bitIf (c : Bool) (mask : Word) : Word := if c then mask else 0x00000000

/-- The command wrote `v` to `rd` and no other register, added `bits` to STATUS and changed no other bit of it, and
touched no bank, buffer or FS outside the units `us`. -/
abbrev wroteOnly (us : List UnitName) (rd : Reg) (v bits : Word) (s t : State) : Prop :=
  holds t rd v ∧ regsKept [rd] s t ∧ t.status = s.status ||| bits ∧ banksKept us s t ∧ busKept s t

/-- The same for a command that writes no register. -/
abbrev touchedOnly (us : List UnitName) (bits : Word) (s t : State) : Prop :=
  regsKept [] s t ∧ t.status = s.status ||| bits ∧ banksKept us s t ∧ busKept s t

/-- The sample in slot `a` of the buffer of instance `i`: units DL and GP have one (20_memory.md R80). -/
def State.slot? (s : State) (u : UnitName) (i a : Nat) : Option Word :=
  if u = .dl then s.dl[i]?.map fun x => x.ring.buf.read a
  else if u = .gp then s.gp[i]?.map fun x => x.ring.buf.read a
  else none

/-- Everything instance `j` of unit `u` holds is as before: parameters, state registers, buffer. -/
abbrev bankKept (u : UnitName) (j : Nat) (s t : State) : Prop :=
  (∀ idx, t.param? u j idx = s.param? u j idx) ∧ (∀ idx, t.stateReg? u j idx = s.stateReg? u j idx) ∧
  (∀ a, t.slot? u j a = s.slot? u j a)

/-- The reset value of a state register of instance `i` (10_state.md R76): ZC.f is f_idle, GP's phases are spaced by a
quarter turn, everything else is zero. -/
def resetWord (s : State) (u : UnitName) (i idx : Nat) : Word :=
  if u = .zc ∧ idx = 2 then (s.param? .zc i 9).getD 0
  else if u = .gp ∧ idx = 2 then 0x3E800000
  else if u = .gp ∧ idx = 3 then 0x3F000000
  else if u = .gp ∧ idx = 4 then 0x3F400000
  else 0x00000000

/-- The data registers a command that executes writes (10_state.md R31): XO.STEP alone writes two. -/
def dests : Instr → List Reg
  | .nop => []
  | .rst _ _ => []
  | .setp _ _ _ _ => []
  | .getp rd _ _ _ => [rd]
  | .gets rd _ _ _ => [rd]
  | .coef _ _ _ => []
  | .ldhi rd _ => [rd]
  | .orlo rd _ => [rd]
  | .mov rd _ => [rd]
  | .fadd rd _ _ => [rd]
  | .fsub rd _ _ => [rd]
  | .fmul rd _ _ => [rd]
  | .clamp rd _ _ _ => [rd]
  | .lerp rd _ _ _ => [rd]
  | .satAtan rd _ _ => [rd]
  | .satTanh rd _ _ => [rd]
  | .sin2pi rd _ => [rd]
  | .cos2pi rd _ => [rd]
  | .cvtifSym rd _ => [rd]
  | .cvtifAsym rd _ => [rd]
  | .cvtfiSym rd _ => [rd]
  | .cvtfiAsym rd _ => [rd]
  | .bqStep rd _ _ => [rd]
  | .lpStep rd _ _ => [rd]
  | .hpStep rd _ _ => [rd]
  | .scStep rd _ _ => [rd]
  | .dlWr _ _ => []
  | .dlRd rd _ _ => [rd]
  | .dcStep rd _ _ => [rd]
  | .liStep rd _ _ _ => [rd]
  | .dsStep rd _ _ => [rd]
  | .xoStep rd _ _ => [rd, rd + 1]
  | .mdStep rd _ _ => [rd]
  | .ncoStep rd _ _ => [rd]
  | .zcStep rd _ _ _ => [rd]
  | .envStep rd _ _ => [rd]
  | .gpStep rd _ _ => [rd]

/-- The command may write a parameter: SETP and COEF (10_state.md R39). -/
def writesParams : Instr → Bool
  | .setp _ _ _ _ => true
  | .coef _ _ _ => true
  | _ => false

/-- The instance whose state a command may change: its own for a step command or RST, every one for `rst all`
(10_state.md R59). -/
def mayChangeState : Instr → UnitName → Nat → Bool
  | .rst u i, v, j => u == .all || (u == v && i.toNat == j)
  | .bqStep _ _ i, v, j => v == .bq && i.toNat == j
  | .lpStep _ _ i, v, j => v == .lp && i.toNat == j
  | .hpStep _ _ i, v, j => v == .hp && i.toNat == j
  | .dlWr _ i, v, j => v == .dl && i.toNat == j
  | .dcStep _ _ i, v, j => v == .dc && i.toNat == j
  | .liStep _ _ _ i, v, j => v == .li && i.toNat == j
  | .dsStep _ _ i, v, j => v == .ds && i.toNat == j
  | .xoStep _ _ i, v, j => v == .xo && i.toNat == j
  | .ncoStep _ _ i, v, j => v == .nco && i.toNat == j
  | .zcStep _ _ _ i, v, j => v == .zc && i.toNat == j
  | .envStep _ _ i, v, j => v == .env && i.toNat == j
  | .gpStep _ _ i, v, j => v == .gp && i.toNat == j
  | _, _, _ => false

/-! ## The exact values of binary32 words -/

/-- The value of a finite word, a rational number. -/
def value (x : Word) : ℚ := (F32.signedUnits x : ℚ) / 2 ^ 149

/-- `w` is the binary32 nearest the exact number `q`, ties to the even significand (00_scope.md R14): a finite word no
finite word is nearer than, or the infinity on `q`'s side when `q` lies at or beyond half a place above MAXF. -/
abbrev NearestEven (q : ℚ) (w : Word) : Prop :=
  if |q| < 2 ^ 128 - 2 ^ 103 then
    F32.isFinite w = true ∧
    ∀ v : Word, F32.isFinite v = true →
      |q - value w| ≤ |q - value v| ∧ (value v ≠ value w → |q - value v| = |q - value w| → F32.magBits w % 2 = 0)
  else F32.isInf w = true ∧ (F32.sign w = true ↔ q < 0)

/-! ## Invariants -/

/-- The units, in the order of 00_scope.md R4. -/
def unitNames : List UnitName :=
  [.global, .bq, .lp, .hp, .sc, .dl, .dc, .li, .ds, .xo, .md, .nco, .zc, .env, .gp]

/-- The configuration is one R8 admits. -/
abbrev ShapeOk (s : State) : Prop := s.config.Admitted

/-- STATUS: reserved bits 0, CAUSE a code of R321, and CAUSE 0 exactly while ILL is 0 (10_state.md R34, R35; 60_exceptions.md R322). -/
abbrev StatusOk (s : State) : Prop :=
  s.status &&& ~~~statusMask = 0 ∧ s.cause.toNat ≤ 6 ∧ (s.ill = false ↔ s.cause = 0)

/-- A buffer: write index below the capacity, contents in canonical form and inside the capacity (20_memory.md R82). -/
abbrev RingOk (b : Ring) : Prop := b.w < b.cap ∧ b.buf.wf = true ∧ b.buf.within b.cap = true

/-- Every sample a buffer holds is ±0.0 (70_reset_and_hazards.md R354). -/
abbrev RingSilent (b : Ring) : Prop := ∀ a, F32.isZero (b.buf.read a) = true

abbrev BuffersOk (s : State) : Prop := (∀ u ∈ s.dl, RingOk u.ring) ∧ (∀ u ∈ s.gp, RingOk u.ring)

/-- The value lies in `[lo, hi]` (and is no NaN). -/
abbrev inRange (lo hi v : Word) : Prop := F32.le lo v = true ∧ F32.le v hi = true

/-- A stored parameter is in the range of its class, and whole if its class is an integer one (10_state.md R40 to R42). -/
abbrev ParamOk (s : State) (i : Nat) (c : ParamClass) (v : Word) : Prop :=
  inRange (s.classRange i c).1 (s.classRange i c).2 v ∧ (c.isInteger = true → F32.trunc v = v)

/-- The table of 10_state.md R40 in words: the legal range of each class, for `nDl` delay lines and a GP capacity `cap`. -/
def legalRange (nDl cap : Nat) : ParamClass → Word × Word
  | .fin => (0xFF7FFFFF, 0x7F7FFFFF)
  | .nneg => (0x00000000, 0x7F7FFFFF)
  | .unit => (0x00000000, 0x3F800000)
  | .coef => (0x35800000, 0x3F800000)
  | .fsr => (0x45FA0000, 0x483B8000)
  | .rdc => (0x00000000, 0x3F7FFFFF)
  | .dly => (0x3F800000, 0x7F7FFFFF)
  | .idxdl => (0x00000000, F32.ofInt ((nDl : Int) - 1))
  | .hang => (0x00000000, 0x4B800000)
  | .glen => (0x40000000, F32.ofInt ((cap : Int) - 2))

/-- The parameter P(U,i)[idx] exists and is legal. -/
def paramOkAt (s : State) (u : UnitName) (i idx : Nat) : Bool :=
  match s.param? u i idx, (paramTable u)[idx]? with
  | some v, some p => decide (ParamOk s i p.2 v)
  | _, _ => false

/-- Every parameter of every instance is legal. -/
abbrev ParamsOk (s : State) : Prop :=
  ∀ u ∈ unitNames, ∀ i < s.count u, ∀ idx < paramCount u, paramOkAt s u i idx = true

/-- A phase in [0, 1). -/
abbrev inTurn (p : Word) : Prop := F32.le F32.zero p = true ∧ F32.lt p F32.one = true

/-- The phases: GP's in [0, 1) (46_granular.md R302), NCO's in [0, 1) or a NaN (44_distortion_rotary.md R246). -/
abbrev PhasesOk (s : State) : Prop :=
  (∀ u ∈ s.nco, F32.isNaN u.ph = true ∨ inTurn u.ph) ∧
  (∀ u ∈ s.gp, inTurn u.p0 ∧ inTurn u.p1 ∧ inTurn u.p2 ∧ inTurn u.p3)

/-- The tracker: the counters in their ranges (10_state.md R71), the frequency no NaN, finite and not negative
(45_octave.md R272). -/
abbrev TrackersOk (s : State) : Prop :=
  ∀ z ∈ s.zc, z.cnt ≤ cntMax ∧ z.hang ≤ 2 ^ 24 ∧ inRange F32.zero F32.maxF z.f

/-- An envelope is not negative, or a NaN (45_octave.md R276). -/
abbrev EnvelopesOk (s : State) : Prop := ∀ u ∈ s.env, F32.isNaN u.e = true ∨ F32.le F32.zero u.e = true

/-- The invariant of the machine. -/
abbrev StateOk (s : State) : Prop :=
  ShapeOk s ∧ StatusOk s ∧ BuffersOk s ∧ ParamsOk s ∧ PhasesOk s ∧ TrackersOk s ∧ EnvelopesOk s

end Sys2Proof.Machine
end

