-- ==== Sys2Proof/Certificates/Slice0/Obligations.lean ====
section
/-! DEFINITION. The statements about the machine. Rule numbers are those of spec/; "log n" is notes/assumptions/n.md. -/

open Sys2Proof Sys2Proof.Machine

/-! ## Encoding -/

/-- R101, R102, R106, R107: decoding an encoded command gives it back, every operand at every value. -/
def Obligations.DecodeInvertsEncode : Prop :=
  ∀ i : Instr, decode (encode i) = .ok i

/-- R106, R109: a word that decodes is the one word of its command. -/
def Obligations.EncodeInvertsDecode : Prop :=
  ∀ (w : Word) (i : Instr), decode w = .ok i → encode i = w

/-- R105, R106, R108, R109: a reserved opcode is an illegal opcode; a word of a defined opcode that matches no row has a
reserved field set; a word that matches a row decodes to a command of that row and matches no other row. -/
def Obligations.EveryWordIsOneRowOrRejected : Prop :=
  ∀ w : Word,
    let op := w.toNat / 2 ^ 26
    let reserved := (0x12 ≤ op ∧ op ≤ 0x1F) ∨ 0x2F ≤ op
    (reserved → decode w = .error .illegalOpcode) ∧
    (¬ reserved → (∀ r ∈ opcodeTable, w &&& r.mask ≠ r.pattern) → decode w = .error .reservedField) ∧
    (∀ r ∈ opcodeTable, w &&& r.mask = r.pattern →
      (∃ i, decode w = .ok i ∧ i.row = r) ∧ ∀ r' ∈ opcodeTable, w &&& r'.mask = r'.pattern → r' = r)

/-- Words the spec writes out, each beside the command its rule says it is (the Example lines of R107, R141, R142, R144,
R161, R168, R170, R221, R242, R272, R301; the match and mask columns of R106). -/
def Obligations.WordsOfTheSpecDecode : Prop :=
  decode 0x84C80400 = .ok (.lpStep 3 2 1) ∧
  decode 0x04008000 = .ok (.rst .lp 0) ∧
  decode 0x08108000 = .ok (.setp 4 .lp 0 0) ∧
  decode 0x10838020 = .ok (.gets 2 .gp 0 2) ∧
  decode 0x18403F80 = .ok (.ldhi 1 0x3F80) ∧
  decode 0x34C04800 = .ok (.lerp 3 0 1 2) ∧
  decode 0x38C04001 = .ok (.satTanh 3 0 1) ∧
  decode 0x90040000 = .ok (.dlWr 1 0) ∧
  decode 0xA4800000 = .ok (.xoStep 2 0 0) ∧
  decode 0xB1814000 = .ok (.zcStep 6 0 5 0) ∧
  decode 0xB8400000 = .ok (.gpStep 1 0 0)

/-! ## The bus and the step -/

/-- R33, R87, R89: a 4-byte write of a command's word to CMD runs that command, whole, in one step. The write is the
oldest pending event (log 3). -/
def Obligations.StepRunsTheCommandWritten : Prop :=
  ∀ (s : State) (rest : List BusEvent) (w : Word) (i : Instr),
    s.bus = .write 0x040 4 w :: rest → decode w = .ok i → step s = exec i { s with bus := rest }

/-- R108, R320, R322: a write to CMD of a word that is no command is a step too, and its whole effect is the rejection. -/
def Obligations.StepRejectsOtherWords : Prop :=
  ∀ (s : State) (rest : List BusEvent) (w : Word) (c : Cause),
    s.bus = .write 0x040 4 w :: rest → decode w = .error c →
      ∃ t, step s = .next t ∧ rejectedWith c { s with bus := rest } t

/-- R37, R87, R88, R89: each aligned 4-byte read inside the window returns its row's word and changes nothing in the block;
a write to D0..D15 writes that register and nothing else; writes to ID and to the reserved addresses are ignored. -/
def Obligations.HostAccessesFollowTheMap : Prop :=
  ∀ (s : State) (rest : List BusEvent) (addr : Nat),
    (s.bus = .read addr 4 :: rest → addr % 4 = 0 → addr < 0x1000 →
      step s = .next { s with
        bus := rest,
        readData :=
          if addr < 0x040 then s.reg (BitVec.ofNat 4 (addr / 4))
          else if addr = 0x040 then 0x00000000
          else if addr = 0x044 then s.status &&& 0x00000F1F
          else if addr = 0x048 then 0x44535031
          else 0x00000000 }) ∧
    (∀ (n : Reg) (v : Word), s.bus = .write (4 * n.toNat) 4 v :: rest →
      ∃ t, step s = .next t ∧ holds t n v ∧ regsKept [n] s t ∧ t.status = s.status ∧ banksKept [] s t ∧
        t.bus = rest ∧ t.readData = s.readData) ∧
    (∀ v : Word, s.bus = .write addr 4 v :: rest → addr % 4 = 0 → 0x048 ≤ addr → addr < 0x1000 →
      step s = .next { s with bus := rest })

/-- R35: what a host write to STATUS does, and what a host read of it returns. The access is the oldest pending event (log 3)
and the word read stands in readData (log 4): both are the model's own fields. -/
def Obligations.StatusWriteClearsOnes : Prop :=
  ∀ (s : State) (rest : List BusEvent),
    (∀ v : Word, s.bus = .write 0x044 4 v :: rest →
      ∃ t, step s = .next t ∧ { s with bus := rest, status := t.status } = t ∧
        (∀ b < 5, t.status.getLsbD b = (s.status.getLsbD b && !v.getLsbD b)) ∧
        (∀ b, 8 ≤ b → b < 12 → t.status.getLsbD b = (s.status.getLsbD b && !v.getLsbD 0)) ∧
        (∀ b, 5 ≤ b → b < 8 ∨ 12 ≤ b → t.status.getLsbD b = s.status.getLsbD b)) ∧
    (s.bus = .read 0x044 4 :: rest →
      ∃ v, step s = .next { s with bus := rest, readData := v } ∧
        ∀ b, v.getLsbD b = (s.status.getLsbD b && (decide (b < 5) || (decide (8 ≤ b) && decide (b < 12)))))

/-- R86 (the refusal) and the model's choice for an address the bus space does not have (log 10, log 11): a misaligned
access or one not 4 bytes wide has no step, an access beyond the window is a fault. -/
def Obligations.BadAccessesAreNotPerformed : Prop :=
  ∀ (s : State) (rest : List BusEvent) (addr width : Nat) (v : Word),
    s.bus = .read addr width :: rest ∨ s.bus = .write addr width v :: rest →
      (addr < 0x1000 → addr % 4 ≠ 0 ∨ width ≠ 4 → step s = .refused (.unperformedAccess addr width)) ∧
      (0x1000 ≤ addr → step s = .fault (.outsideWindow addr))

/-- R320, R8, R81: every command ends in a next state, executed or rejected, whatever the state; it takes no host event,
leaves the last word read alone, and changes neither an instance count nor a buffer capacity. -/
def Obligations.NoCommandStopsTheBlock : Prop :=
  ∀ (i : Instr) (s : State), ∃ t, exec i s = .next t ∧ busKept s t ∧ t.config = s.config

/-- R335, R352, R43 to R58, R76: what power-on reset leaves in every configuration, and that a power cycle leaves it in
the machine's own (log 15). -/
def Obligations.PowerOnValues : Prop :=
  (∀ c : Config,
    let t := powerOn c
    t.config = c ∧ t.status = 0x00000000 ∧ (∀ r : Reg, t.isWritten r = false) ∧ t.fs = 0x472C4400 ∧
    (∀ i < c.nBq, [0, 1, 2, 3, 4].map (t.param? .bq i) = [some 0x3F800000, some 0, some 0, some 0, some 0]) ∧
    (∀ i < c.nLp, t.param? .lp i 0 = some 0x3F800000) ∧
    (∀ i < c.nHp, t.param? .hp i 0 = some 0x35800000) ∧
    (∀ i < c.nSc, [0, 1].map (t.param? .sc i) = [some 0x3F800000, some 0]) ∧
    (∀ i < c.nDc, t.param? .dc i 0 = some 0x3F7EB852) ∧
    (∀ i < c.nDs, [0, 1, 2].map (t.param? .ds i) = [some 0x3F800000, some 0x3F800000, some 0x35800000]) ∧
    (∀ i < c.nXo, t.param? .xo i 0 = some 0x3F800000) ∧
    (∀ i < c.nMd, [0, 1, 2, 3, 4].map (t.param? .md i) = [some 0x3F800000, some 0, some 0, some 0, some 0]) ∧
    (∀ i < c.nNco, t.param? .nco i 0 = some 0x3F800000) ∧
    (∀ i < c.nZc, (List.range 11).map (t.param? .zc i) =
      [some 0x3CA3D70A, some 0x3C23D70A, some 0x45000000, some 0x3A83126F, some 0x42200000, some 0x44BB8000,
       some 0x3DCCCCCD, some 0x3E800000, some 0x3DCCCCCD, some 0x42DC0000, some 0x3A83126F]) ∧
    (∀ i < c.nEnv, [0, 1].map (t.param? .env i) = [some 0x3C75C28F, some 0x3B449BA6]) ∧
    (∀ i cap : Nat, c.gpCap[i]? = some cap →
      [0, 1].map (t.param? .gp i) = [some 0x3F800000, some (F32.ofInt ((cap : Int) - 2))]) ∧
    (∀ i < c.nZc, (List.range 5).map (t.stateReg? .zc i) = [some 0, some 0, some 0x42DC0000, some 0, some 0]) ∧
    (∀ i < c.gpCap.length, (List.range 5).map (t.stateReg? .gp i) =
      [some 0, some 0, some 0x3E800000, some 0x3F000000, some 0x3F400000]) ∧
    (∀ u, u ≠ .zc → u ≠ .gp → ∀ i < t.count u, ∀ idx < stateCount u, t.stateReg? u i idx = some 0) ∧
    (∀ u i a v, t.slot? u i a = some v → v = 0x00000000)) ∧
  (∀ (s : State) (rest : List BusEvent), s.bus = .powerCycle :: rest →
    step s = .next { powerOn s.config with bus := rest })

/-! ## Rejection -/

/-- R321, R322: the effect of a rejection, for every command the checks of R105 reject; a later command is executed or rejected
as if ILL and CAUSE had not been recorded. -/
def Obligations.RejectionOnlyRecordsItsCause : Prop :=
  ∀ (s : State) (i : Instr) (c : Cause), rejectCause s i = some c →
    ∃ t, exec i s = .next t ∧ rejectedWith c s t ∧ ∀ j : Instr, rejectCause t j = rejectCause s j

/-- R105, R322, R323: a command that fails a check its word decides (3, 5 and 6, and 4 for GLOBAL and ALL) is rejected in
every state with the cause of its first failing check; one that passes them all is rejected with BAD_INSTANCE or not at
all, and then leaves ILL and CAUSE alone. -/
def Obligations.IllFormedCommandsAreRejected : Prop :=
  ∀ (i : Instr) (s : State),
    (i.wellFormed = false →
      ∃ c t, rejectCause s i = some c ∧ exec i s = .next t ∧ rejectedWith c s t) ∧
    (i.wellFormed = true →
      (∀ c, rejectCause s i = some c → c = .badInstance) ∧
      ∃ t, exec i s = .next t ∧ (rejectedWith .badInstance s t ∨ (t.ill = s.ill ∧ t.cause = s.cause)))

/-- R34, last sentence: a command clears no sticky flag, touches no reserved bit, and writes CAUSE only as it sets ILL. -/
def Obligations.CommandsOnlySetStatusBits : Prop :=
  ∀ (i : Instr) (s t : State), exec i s = .next t →
    s.status &&& 0x0000001F &&& ~~~t.status = 0 ∧
    t.status &&& 0xFFFFF0E0 = s.status &&& 0xFFFFF0E0 ∧
    (t.cause = s.cause ∨ (s.ill = false ∧ t.ill = true))

/-- R74, R322: no command's effect outside STATUS depends on STATUS. -/
def Obligations.StatusNeverSteersACommand : Prop :=
  ∀ (i : Instr) (s t : State) (v : Word), exec i s = .next t →
    ∃ t', exec i { s with status := v } = .next t' ∧ { t with status := t'.status } = t'

/-! ## Frames over every command -/

/-- R31, R32: a command writes no data register but its destination, and XO.STEP its pair. -/
def Obligations.OnlyDestinationRegistersChange : Prop :=
  ∀ (i : Instr) (s t : State), exec i s = .next t → regsKept (dests i) s t

/-- R39, R59, R81, R190: only SETP and COEF write a parameter, and only a unit's own step command or a reset changes the
state registers and the buffer of an instance. -/
def Obligations.UnitsOwnTheirState : Prop :=
  ∀ (i : Instr) (s t : State), exec i s = .next t →
    (writesParams i = false → ∀ u j idx, t.param? u j idx = s.param? u j idx) ∧
    (∀ u j, mayChangeState i u j = false →
      (∀ idx, t.stateReg? u j idx = s.stateReg? u j idx) ∧ (∀ a, t.slot? u j a = s.slot? u j a))

/-- R32 (and log 2): as long as no step reads an unwritten data register, what those registers hold at power-on is seen
nowhere. -/
def Obligations.UnwrittenRegistersAreNotObserved : Prop :=
  ∀ s t : State, AgreeOnWritten s t → readsUnwritten s = false → outcomesAgree (step s) (step t)

/-! ## Invariants -/

/-- The power-on state of every configuration R8 admits meets the invariant (canonical
buffers: log 12). -/
def Obligations.PowerOnStateIsOk : Prop :=
  ∀ c : Config, c.Admitted → StateOk (powerOn c)

/-- Log 5, log 12: so does the model's reset state. -/
def Obligations.ResetStateIsOk : Prop := StateOk State.reset

/-- R65, R82, R223.1: every step keeps each write index below its capacity and each buffer canonical and inside its
capacity. The canonical form is the model's own representation of the contents (log 12). -/
def Obligations.StepKeepsBuffersOk : Prop :=
  ∀ s t : State, BuffersOk s → step s = .next t → BuffersOk t

/-- R40, R41, R42, R145: every step keeps every parameter in its legal range, whole where its class is an integer one. -/
def Obligations.StepKeepsParamsOk : Prop :=
  ∀ s t : State, ShapeOk s → ParamsOk s → step s = .next t → ParamsOk t

/-- The whole invariant is kept by every step from every state that meets it (canonical buffers: log 12). -/
def Obligations.StepKeepsStateOk : Prop :=
  ∀ s t : State, StateOk s → step s = .next t → StateOk t

/-! ## Control commands -/

/-- R140, R108: NOP is the word 0, changes nothing, and any other word of its opcode is rejected. -/
def Obligations.NopChangesNothing : Prop :=
  encode .nop = 0x00000000 ∧ (∀ s : State, exec .nop s = .next s) ∧
  ∀ w : Word, w.toNat / 2 ^ 26 = 0 → w ≠ 0 → decode w = .error .reservedField

/-- R350, R141: RST of an instance that exists sets its state registers and its buffer to the reset values and changes
nothing else. -/
def Obligations.RstResetsOneInstance : Prop :=
  ∀ (s : State) (u : UnitName) (inst : InstNo), u ≠ .all → inst.toNat < s.count u →
    ∃ t, exec (.rst u inst) s = .next t ∧ touchedOnly [u] 0 s t ∧ t.fs = s.fs ∧ t.config = s.config ∧
      (∀ j idx, t.param? u j idx = s.param? u j idx) ∧
      (∀ j, j ≠ inst.toNat → bankKept u j s t) ∧
      (∀ idx < stateCount u, t.stateReg? u inst.toNat idx = some (resetWord s u inst.toNat idx)) ∧
      (∀ a v, t.slot? u inst.toNat a = some v → v = 0x00000000)

/-- R351, R141: `rst all` does to every instance of every unit what its own RST does, and nothing else; doing it again
changes nothing. -/
def Obligations.RstAllResetsEveryInstance : Prop :=
  ∀ s : State, ∃ t, exec (.rst .all 0) s = .next t ∧ regsKept [] s t ∧ t.status = s.status ∧ t.fs = s.fs ∧ busKept s t ∧
    t.config = s.config ∧
    (∀ u j idx, t.param? u j idx = s.param? u j idx) ∧
    (∀ u, ∀ j < s.count u, ∀ idx < stateCount u, t.stateReg? u j idx = some (resetWord s u j idx)) ∧
    (∀ u j a v, t.slot? u j a = some v → v = 0x00000000) ∧
    exec (.rst .all 0) t = .next t

/-- R142, R40, R41, R42: SETP of a parameter that exists: a NaN only sets PNAN; any other value is clamped to the range of
its class, PCLAMP says whether that changed it, an integer parameter is then truncated, and nothing else changes. The
classes of the parameters are those of R44 to R58. For an integer class PCLAMP compares before the truncation, as R41 does
and the vector V-SETP-3 does not (log 17), and a `-0.0` stays `-0.0` (log 30). -/
def Obligations.SetpWritesOneParameter : Prop :=
  (unitNames.map fun u => (paramTable u).map Prod.snd) =
    [[.fsr], [.fin, .fin, .fin, .fin, .fin], [.coef], [.coef], [.nneg, .unit], [], [.rdc], [], [.nneg, .nneg, .coef],
     [.coef], [.dly, .nneg, .unit, .fin, .idxdl], [.unit],
     [.nneg, .nneg, .hang, .nneg, .nneg, .nneg, .unit, .nneg, .unit, .nneg, .unit], [.unit, .unit], [.nneg, .glen]] ∧
  ∀ (s : State) (ra : Reg) (u : UnitName) (inst : InstNo) (idx : Idx) (name : String) (c : ParamClass),
    inst.toNat < s.count u → (paramTable u)[idx.toNat]? = some (name, c) →
      let x := s.freg ra
      let range := legalRange s.dl.length ((s.gp[inst.toNat]?.map fun g => g.ring.cap).getD 0) c
      let v := F32.clamp x range.1 range.2
      (F32.isNaN x = true → exec (.setp ra u inst idx) s = .next { s with status := s.status ||| 0x00000010 }) ∧
      (F32.isNaN x = false →
        ∃ t, exec (.setp ra u inst idx) s = .next t ∧
          touchedOnly [u] (bitIf (!F32.eq v x) 0x00000008) s t ∧ t.config = s.config ∧
          t.param? u inst.toNat idx.toNat = some (if c = .idxdl ∨ c = .hang then F32.trunc v else v) ∧
          (∀ j k, (j, k) ≠ (inst.toNat, idx.toNat) → t.param? u j k = s.param? u j k) ∧
          (∀ j k, t.stateReg? u j k = s.stateReg? u j k) ∧ (∀ j a, t.slot? u j a = s.slot? u j a))

/-- R143, R144, R60: GETP and GETS of a register that exists copy its word to rd and change nothing else. Which register
an idx names is that of the tables of R44 to R58 and R61 to R73, and its word that of R60: a float its bits, an int its
zero-extension, a bool 0 or 1. -/
def Obligations.GetpAndGetsCopyOneRegister : Prop :=
  unitNames.map paramCount = [1, 5, 1, 1, 2, 0, 1, 0, 3, 1, 5, 1, 11, 2, 2] ∧
  unitNames.map stateCount = [0, 4, 1, 1, 0, 1, 2, 1, 1, 1, 0, 2, 5, 1, 5] ∧
  (∀ s : State,
    unitNames.map s.count = [1, s.bq.length, s.lp.length, s.hp.length, s.sc.length, s.dl.length, s.dc.length,
      s.li.length, s.ds.length, s.xo.length, s.md.length, s.nco.length, s.zc.length, s.env.length, s.gp.length]) ∧
  (∀ (s : State) (i : Nat),
    let params := fun u => (List.range (paramCount u)).map fun idx => s.param? u i idx
    let regs := fun u => (List.range (stateCount u)).map fun idx => s.stateReg? u i idx
    s.param? .global 0 0 = some s.fs ∧
    (∀ x, s.bq[i]? = some x → params .bq = [some x.b0, some x.b1, some x.b2, some x.a1, some x.a2] ∧
      regs .bq = [some x.x1, some x.x2, some x.y1, some x.y2]) ∧
    (∀ x, s.lp[i]? = some x → params .lp = [some x.a] ∧ regs .lp = [some x.y]) ∧
    (∀ x, s.hp[i]? = some x → params .hp = [some x.a] ∧ regs .hp = [some x.lp]) ∧
    (∀ x, s.sc[i]? = some x → params .sc = [some x.drive, some x.mix]) ∧
    (∀ x, s.dl[i]? = some x → regs .dl = [some (BitVec.ofNat 32 x.ring.w)]) ∧
    (∀ x, s.dc[i]? = some x → params .dc = [some x.r] ∧ regs .dc = [some x.x1, some x.y1]) ∧
    (∀ x, s.li[i]? = some x → regs .li = [some x.prev]) ∧
    (∀ x, s.ds[i]? = some x → params .ds = [some x.gain, some x.k, some x.a] ∧ regs .ds = [some x.lp]) ∧
    (∀ x, s.xo[i]? = some x → params .xo = [some x.a] ∧ regs .xo = [some x.lp]) ∧
    (∀ x, s.md[i]? = some x → params .md = [some x.base, some x.swing, some x.am, some x.off, some x.dlsel]) ∧
    (∀ x, s.nco[i]? = some x → params .nco = [some x.c] ∧ regs .nco = [some x.f, some x.ph]) ∧
    (∀ x, s.zc[i]? = some x →
      params .zc = [some x.thOn, some x.thOff, some x.hangLen, some x.hyst, some x.fMin, some x.fMax, some x.foldTol,
        some x.maxJump, some x.smooth, some x.fIdle, some x.drift] ∧
      regs .zc = [some (BitVec.ofNat 32 x.cnt), some (if x.pos then 0x00000001 else 0x00000000), some x.f,
        some (if x.locked then 0x00000001 else 0x00000000), some (BitVec.ofNat 32 x.hang)]) ∧
    (∀ x, s.env[i]? = some x → params .env = [some x.att, some x.rel] ∧ regs .env = [some x.e]) ∧
    (∀ x, s.gp[i]? = some x → params .gp = [some x.ratio, some x.glen] ∧
      regs .gp = [some (BitVec.ofNat 32 x.ring.w), some x.p0, some x.p1, some x.p2, some x.p3])) ∧
  ∀ (s : State) (rd : Reg) (u : UnitName) (inst : InstNo) (idx : Idx), u ≠ .all → inst.toNat < s.count u →
    (idx.toNat < paramCount u →
      ∃ v t, s.param? u inst.toNat idx.toNat = some v ∧ exec (.getp rd u inst idx) s = .next t ∧
        wroteOnly [] rd v 0 s t) ∧
    (idx.toNat < stateCount u →
      ∃ v t, s.stateReg? u inst.toNat idx.toNat = some v ∧ exec (.gets rd u inst idx) s = .next t ∧
        wroteOnly [] rd v 0 s t)

/-- R145: COEF on an instance that exists, from the cutoff in ra and FS: the clamped cutoff, the coefficient by the unit's
form, and the parameter write of R41, in the operations of R14; with FS in its legal range the coefficient is no NaN. -/
def Obligations.CoefDesignsOneCoefficient : Prop :=
  ∀ (s : State) (ra : Reg) (u : UnitName) (inst : InstNo),
    u = .lp ∨ u = .hp ∨ u = .ds ∨ u = .xo → inst.toNat < s.count u →
      let fc := s.freg ra
      let fcc := F32.clamp fc 0x3F800000 (F32.mul 0x3EE66666 s.fs)
      let w := F32.mul 0x40C90FDB fcc
      let a := if u = .hp then F32.div w (F32.add w s.fs)
        else F32.sub 0x3F800000 (F32.exp (F32.neg (F32.div w s.fs)))
      let v := F32.clamp a 0x35800000 0x3F800000
      let aidx := if u = .ds then 2 else 0
      (F32.isNaN fc = true → exec (.coef ra u inst) s = .next { s with status := s.status ||| 0x00000010 }) ∧
      (F32.isNaN fc = false → F32.isNaN a = false →
        ∃ t, exec (.coef ra u inst) s = .next t ∧
          touchedOnly [u] (bitIf (!F32.eq fcc fc || !F32.eq v a) 0x00000008) s t ∧ t.config = s.config ∧
          t.param? u inst.toNat aidx = some v ∧
          (∀ j k, (j, k) ≠ (inst.toNat, aidx) → t.param? u j k = s.param? u j k) ∧
          (∀ j k, t.stateReg? u j k = s.stateReg? u j k)) ∧
      (F32.isNaN fc = false → inRange 0x45FA0000 0x483B8000 s.fs → F32.isNaN a = false)

/-! ## Scalar commands -/

/-- R161, R162, R163, R104: LDHI, ORLO and MOV move words; no flag changes, NaN pattern or not. -/
def Obligations.WordMovesResults : Prop :=
  ∀ (s : State) (rd ra : Reg) (imm : Imm16),
    (∃ t, exec (.ldhi rd imm) s = .next t ∧ wroteOnly [] rd (BitVec.ofNat 32 (imm.toNat * 65536)) 0 s t) ∧
    (∃ t, exec (.orlo rd imm) s = .next t ∧ wroteOnly [] rd (s.reg rd ||| BitVec.ofNat 32 imm.toNat) 0 s t) ∧
    (∃ t, exec (.mov rd ra) s = .next t ∧ wroteOnly [] rd (s.reg ra) 0 s t)

/-- R164 to R168: FADD, FSUB, FMUL, CLAMP and LERP. They read a register by R11, a NaN as QNAN whatever its payload (R19,
log 8). LERP is the formula of R18 also where the words of R303 say otherwise (log 22). -/
def Obligations.ArithmeticResults : Prop :=
  (∀ (s : State) (r : Reg),
    (F32.isNaN (s.reg r) = false → s.freg r = s.reg r) ∧ (F32.isNaN (s.reg r) = true → s.freg r = 0x7FC00000)) ∧
  ∀ (s : State) (rd ra rb rc : Reg),
    let a := s.freg ra
    let b := s.freg rb
    let c := s.freg rc
    let l := F32.add a (F32.mul c (F32.sub b a))
    (∃ t, exec (.fadd rd ra rb) s = .next t ∧ wroteOnly [] rd (F32.add a b) (nvBits [a, b, F32.add a b]) s t) ∧
    (∃ t, exec (.fsub rd ra rb) s = .next t ∧ wroteOnly [] rd (F32.sub a b) (nvBits [a, b, F32.sub a b]) s t) ∧
    (∃ t, exec (.fmul rd ra rb) s = .next t ∧ wroteOnly [] rd (F32.mul a b) (nvBits [a, b, F32.mul a b]) s t) ∧
    (∃ t, exec (.clamp rd ra rb rc) s = .next t ∧
      wroteOnly [] rd (F32.clamp a b c) (nvBits [a, b, c, F32.clamp a b c]) s t) ∧
    (∃ t, exec (.lerp rd ra rb rc) s = .next t ∧ wroteOnly [] rd l (nvBits [a, b, c, l]) s t)

/-- R14, R17, R164, R165, R166: on finite operands the four operations give the binary32 nearest the exact result, ties
to even, with infinity beyond MAXF. -/
def Obligations.ArithmeticRoundsToNearestEven : Prop :=
  ∀ x y : Word, F32.isFinite x = true → F32.isFinite y = true →
    NearestEven (value x + value y) (F32.add x y) ∧
    NearestEven (value x - value y) (F32.sub x y) ∧
    NearestEven (value x * value y) (F32.mul x y) ∧
    (F32.isZero y = false → NearestEven (value x / value y) (F32.div x y))

/-- R14, R19, R164, R165, R166 (corner cases): every infinity, signed zero and NaN in the four operations, the sign of each
product and quotient, and negation and absolute value (of a NaN: log 9). -/
def Obligations.ArithmeticSpecialValues : Prop :=
  (∀ x y : Word,
    (F32.isNaN x = true ∨ F32.isNaN y = true →
      F32.add x y = 0x7FC00000 ∧ F32.sub x y = 0x7FC00000 ∧ F32.mul x y = 0x7FC00000 ∧ F32.div x y = 0x7FC00000) ∧
    (F32.isNaN (F32.add x y) = true → F32.add x y = 0x7FC00000) ∧
    (F32.isNaN (F32.sub x y) = true → F32.sub x y = 0x7FC00000) ∧
    (F32.isNaN (F32.mul x y) = true → F32.mul x y = 0x7FC00000) ∧
    (F32.isNaN (F32.div x y) = true → F32.div x y = 0x7FC00000) ∧
    (F32.isInf x = true → F32.isInf y = true →
      F32.add x y = (if F32.sign x = F32.sign y then x else 0x7FC00000) ∧
      F32.sub x y = (if F32.sign x = F32.sign y then 0x7FC00000 else x) ∧
      F32.div x y = 0x7FC00000) ∧
    (F32.isInf x = true → F32.isFinite y = true →
      F32.add x y = x ∧ F32.add y x = x ∧ F32.sub x y = x ∧ F32.sub y x = F32.neg x ∧
      F32.isInf (F32.div x y) = true ∧ F32.isZero (F32.div y x) = true) ∧
    (F32.isZero x = true → F32.isZero y = true →
      F32.add x y = (if F32.sign x = true ∧ F32.sign y = true then 0x80000000 else 0x00000000) ∧
      F32.sub x y = (if F32.sign x = true ∧ F32.sign y = false then 0x80000000 else 0x00000000) ∧
      F32.div x y = 0x7FC00000) ∧
    (F32.isFinite x = true → F32.sub x x = 0x00000000) ∧
    (F32.isInf x = true → F32.isNaN y = false → F32.isZero y = false →
      F32.isInf (F32.mul x y) = true ∧ F32.isInf (F32.mul y x) = true) ∧
    (F32.isZero x = true → F32.isInf y = true → F32.mul x y = 0x7FC00000 ∧ F32.mul y x = 0x7FC00000) ∧
    (F32.isZero x = true → F32.isFinite y = true → F32.isZero (F32.mul x y) = true ∧ F32.isZero (F32.mul y x) = true) ∧
    (F32.isFinite x = true → F32.isZero x = false → F32.isZero y = true →
      F32.isInf (F32.div x y) = true ∧ F32.isZero (F32.div y x) = true) ∧
    (F32.isNaN (F32.mul x y) = false → F32.sign (F32.mul x y) = (F32.sign x != F32.sign y)) ∧
    (F32.isNaN (F32.div x y) = false → F32.sign (F32.div x y) = (F32.sign x != F32.sign y))) ∧
  ∀ x : Word,
    (F32.isNaN x = false → F32.neg x = x ^^^ 0x80000000 ∧ F32.abs x = x &&& 0x7FFFFFFF) ∧
    (F32.isNaN x = true → F32.neg x = 0x7FC00000 ∧ F32.abs x = 0x7FC00000)

/-- R15, R16: the ordered comparisons, and `clamp32`: unchanged inside the range, `hi` whenever `lo > hi`, a NaN bound
ignored, a NaN returned. -/
def Obligations.ClampLaws : Prop :=
  ∀ x lo hi : Word,
    (F32.clamp x lo hi =
      let t := if F32.lt x lo then lo else x
      if F32.lt hi t then hi else t) ∧
    (F32.le lo x = true → F32.le x hi = true → F32.clamp x lo hi = x) ∧
    (F32.lt hi lo = true → F32.isNaN x = false → F32.clamp x lo hi = hi) ∧
    (F32.isNaN lo = true → F32.clamp x lo hi = if F32.lt hi x then hi else x) ∧
    (F32.isNaN hi = true → F32.clamp x lo hi = if F32.lt x lo then lo else x) ∧
    (F32.isNaN x = true → F32.clamp x lo hi = x)

/-- R15: on finite words the comparisons are those of the exact values (so the zeros are equal), an infinity lies beyond
every finite word, and a NaN operand makes each of them false. The kinds of words and the exact value are those of the
binary32 fields (R30: sign bit 31, exponent bits 30:23, fraction bits 22:0). -/
def Obligations.ComparisonsAreThoseOfTheValues : Prop :=
  (∀ x : Word,
    let e := (x.extractLsb' 23 8).toNat
    let f := (x.extractLsb' 0 23).toNat
    F32.sign x = x.getLsbD 31 ∧
    (F32.isNaN x = true ↔ e = 255 ∧ f ≠ 0) ∧ (F32.isInf x = true ↔ e = 255 ∧ f = 0) ∧
    (F32.isFinite x = true ↔ e < 255) ∧ (F32.isZero x = true ↔ e = 0 ∧ f = 0) ∧
    (e < 255 → value x = (if x.getLsbD 31 then -1 else 1) *
      (if e = 0 then (f : ℚ) / 2 ^ 149 else (1 + (f : ℚ) / 2 ^ 23) * 2 ^ e / 2 ^ 127))) ∧
  ∀ x y : Word,
    (F32.isFinite x = true → F32.isFinite y = true →
      (F32.lt x y = true ↔ value x < value y) ∧ (F32.le x y = true ↔ value x ≤ value y) ∧
      (F32.eq x y = true ↔ value x = value y)) ∧
    (F32.isFinite x = true → F32.lt x 0x7F800000 = true ∧ F32.lt 0xFF800000 x = true) ∧
    (F32.isNaN x = true ∨ F32.isNaN y = true → F32.lt x y = false ∧ F32.le x y = false ∧ F32.eq x y = false)

/-- R17 and R21: `floor32`, `trunc32` and `frac32` of every word, `f32(n)` of an integer up to 2^24 in magnitude, `int(x)`
of a finite word. The fraction is `x - floor32(x)` rounded once, and +0.0 where that rounds to 1.0. -/
def Obligations.IntegralPartsOfFiniteWords : Prop :=
  (∀ x : Word,
    (F32.isFinite x = true →
      let t := F32.sub x (F32.floor x)
      value (F32.floor x) = ⌊value x⌋ ∧
      value (F32.trunc x) = (if value x < 0 then (⌈value x⌉ : ℚ) else (⌊value x⌋ : ℚ)) ∧
      F32.toInt x = (if value x < 0 then ⌈value x⌉ else ⌊value x⌋) ∧
      NearestEven (value x - ⌊value x⌋) t ∧
      F32.fract x = (if F32.le 0x3F800000 t then 0x00000000 else t) ∧
      inTurn (F32.fract x)) ∧
    (F32.isNaN x = false → F32.sign (F32.floor x) = F32.sign x ∧ F32.sign (F32.trunc x) = F32.sign x) ∧
    (F32.isInf x = true → F32.floor x = x ∧ F32.trunc x = x ∧ F32.fract x = 0x7FC00000) ∧
    (F32.isNaN x = true → F32.floor x = 0x7FC00000 ∧ F32.trunc x = 0x7FC00000 ∧ F32.fract x = 0x7FC00000)) ∧
  ∀ n : Int, -2 ^ 24 ≤ n → n ≤ 2 ^ 24 →
    F32.isFinite (F32.ofInt n) = true ∧ value (F32.ofInt n) = n ∧ F32.sign (F32.ofInt n) = decide (n < 0) ∧
    F32.toInt (F32.ofInt n) = n

/-- R169 to R172: the saturators `TWO_OVER_PI32 * ATAN(k * x)` and `TANH(k * x)`, and SIN2PI and COS2PI. A
zero k with an infinite x gives QNAN (log 24). -/
def Obligations.SaturatorAndTrigResults : Prop :=
  ∀ (s : State) (rd ra rb : Reg),
    let x := s.freg ra
    let k := s.freg rb
    let y := F32.mul 0x3F22F983 (F32.atan (F32.mul k x))
    let z := F32.tanh (F32.mul k x)
    (∃ t, exec (.satAtan rd ra rb) s = .next t ∧ wroteOnly [] rd y (nvBits [x, k, y]) s t) ∧
    (∃ t, exec (.satTanh rd ra rb) s = .next t ∧ wroteOnly [] rd z (nvBits [x, k, z]) s t) ∧
    (∃ t, exec (.sin2pi rd ra) s = .next t ∧ wroteOnly [] rd (F32.sin2pi x) (nvBits [x, F32.sin2pi x]) s t) ∧
    (∃ t, exec (.cos2pi rd ra) s = .next t ∧ wroteOnly [] rd (F32.cos2pi x) (nvBits [x, F32.cos2pi x]) s t)

/-- R20: the properties a model may assume of the transcendental functions, whatever the free functions behind them are
(log 6): totality is their type, QNAN for a NaN, monotony, oddness, bounds, and the exact points, at -0.0
and at negative multiples of 1/4 as log 7 reads R20. -/
def Obligations.TranscendentalsMeetTheirProperties : Prop :=
  (∀ x : Word, F32.isNaN x = true →
    F32.exp x = 0x7FC00000 ∧ F32.atan x = 0x7FC00000 ∧ F32.tanh x = 0x7FC00000 ∧
    F32.sin2pi x = 0x7FC00000 ∧ F32.cos2pi x = 0x7FC00000) ∧
  (∀ x y : Word, F32.le x y = true →
    F32.le (F32.exp x) (F32.exp y) = true ∧ F32.le (F32.atan x) (F32.atan y) = true ∧
    F32.le (F32.tanh x) (F32.tanh y) = true) ∧
  F32.exp 0x00000000 = 0x3F800000 ∧ F32.atan 0x00000000 = 0x00000000 ∧ F32.tanh 0x00000000 = 0x00000000 ∧
  (∀ x : Word, F32.isNaN x = false →
    inRange 0x00000000 0x7F800000 (F32.exp x) ∧
    inRange 0xBFC90FDB 0x3FC90FDB (F32.atan x) ∧ inRange 0xBF800000 0x3F800000 (F32.tanh x) ∧
    F32.atan (F32.neg x) = F32.neg (F32.atan x) ∧ F32.tanh (F32.neg x) = F32.neg (F32.tanh x)) ∧
  (∀ u : Word, F32.isInf u = true → F32.sin2pi u = 0x7FC00000 ∧ F32.cos2pi u = 0x7FC00000) ∧
  (∀ u : Word, F32.isFinite u = true →
    inRange 0xBF800000 0x3F800000 (F32.sin2pi u) ∧ inRange 0xBF800000 0x3F800000 (F32.cos2pi u) ∧
    ∀ n : Int, value u = (n : ℚ) / 4 →
      F32.cos2pi u = (if n % 4 = 0 then 0x3F800000 else if n % 4 = 2 then 0xBF800000 else 0x00000000) ∧
      F32.sin2pi u = (if u = 0x80000000 then 0x80000000
        else if n % 4 = 1 then 0x3F800000 else if n % 4 = 3 then 0xBF800000 else 0x00000000))

/-- R173, R174: CVTIF reads the int16 in bits 15:0 and gives its exact quotient by 32768, or the nearest binary32 to its
quotient by 32767; no flag changes. -/
def Obligations.CvtifResults : Prop :=
  ∀ (s : State) (rd ra : Reg),
    let n := ((s.reg ra).extractLsb' 0 16).toInt
    (∃ y t, exec (.cvtifSym rd ra) s = .next t ∧ wroteOnly [] rd y 0 s t ∧
      F32.isFinite y = true ∧ value y = (n : ℚ) / 32768 ∧ F32.sign y = decide (n < 0)) ∧
    (∃ y t, exec (.cvtifAsym rd ra) s = .next t ∧ wroteOnly [] rd y 0 s t ∧
      F32.isFinite y = true ∧ F32.sign y = decide (n < 0) ∧
      (0 ≤ n → NearestEven ((n : ℚ) / 32767) y) ∧ (n < 0 → value y = (n : ℚ) / 32768))

/-- R175, R176: CVTFI: a NaN gives 0 and NV; any other value is scaled, clamped to the int16 range (OCLAMP says whether
that changed it), truncated and sign-extended. -/
def Obligations.CvtfiResults : Prop :=
  ∀ (s : State) (rd ra : Reg),
    let x := s.freg ra
    let fin := fun v : Word => F32.clamp v 0xC7000000 0x46FFFE00
    let word := fun v : Word => (BitVec.ofInt 16 (F32.toInt (F32.trunc (fin v)))).signExtend 32
    let vs := F32.mul x 0x47000000
    let va := if F32.le 0x00000000 x then F32.mul x 0x46FFFE00 else F32.mul x 0x47000000
    (F32.isNaN x = true →
      (∃ t, exec (.cvtfiSym rd ra) s = .next t ∧ wroteOnly [] rd 0 0x00000002 s t) ∧
      (∃ t, exec (.cvtfiAsym rd ra) s = .next t ∧ wroteOnly [] rd 0 0x00000002 s t)) ∧
    (F32.isNaN x = false →
      (∃ t, exec (.cvtfiSym rd ra) s = .next t ∧
        wroteOnly [] rd (word vs) (bitIf (!F32.eq (fin vs) vs) 0x00000004) s t) ∧
      (∃ t, exec (.cvtfiAsym rd ra) s = .next t ∧
        wroteOnly [] rd (word va) (bitIf (!F32.eq (fin va) va) 0x00000004) s t))

/-- R175: on a finite value CVTFI.SYM is exact integer arithmetic: 32768 times the value, toward zero, limited to
[-32768, 32767], with OCLAMP exactly when the scaled value lay outside. -/
def Obligations.CvtfiSymIsExact : Prop :=
  ∀ (s t : State) (rd ra : Reg), F32.isFinite (s.freg ra) = true → exec (.cvtfiSym rd ra) s = .next t →
    let q := value (s.freg ra) * 32768
    (t.reg rd).toInt = max (-32768) (min 32767 (if q < 0 then ⌈q⌉ else ⌊q⌋)) ∧
    (t.oclamp = true ↔ s.oclamp = true ∨ q < -32768 ∨ 32767 < q)

/-- R175, R176, the source's property "Output int16 samples are always within [-32768, 32767]", and R174's round trip:
a sample comes back from either pair of conversions. -/
def Obligations.SamplesSurviveTheRoundTrip : Prop :=
  (∀ (s t : State) (rd ra : Reg), exec (.cvtfiSym rd ra) s = .next t ∨ exec (.cvtfiAsym rd ra) s = .next t →
    -32768 ≤ (t.reg rd).toInt ∧ (t.reg rd).toInt ≤ 32767) ∧
  (∀ (s : State) (rd re ra : Reg),
    let n := ((s.reg ra).extractLsb' 0 16).toInt
    (∃ t, runAll [.cvtifSym rd ra, .cvtfiSym re rd] s = .next t ∧ (t.reg re).toInt = n ∧ t.status = s.status) ∧
    (∃ t, runAll [.cvtifAsym rd ra, .cvtfiAsym re rd] s = .next t ∧ (t.reg re).toInt = n ∧ t.status = s.status))

/-! ## Filters -/

/-- R191 to R194: LP.STEP, HP.STEP, DC.STEP and LI.STEP on an instance that exists. The formulas hold also where the words
of R191 to R194 say otherwise (logs 22, 25, 27). -/
def Obligations.FirstOrderStepResults : Prop :=
  ∀ (s : State) (rd ra rb : Reg) (inst : InstNo),
    let x := s.freg ra
    (∀ u : Lp, s.lp[inst.toNat]? = some u →
      let y := F32.add u.y (F32.mul u.a (F32.sub x u.y))
      ∃ t, exec (.lpStep rd ra inst) s = .next t ∧ wroteOnly [.lp] rd y (nvBits [x, y]) s t ∧
        replaced s.lp inst.toNat { u with y := y } t.lp) ∧
    (∀ u : Hp, s.hp[inst.toNat]? = some u →
      let lp := F32.add u.lp (F32.mul u.a (F32.sub x u.lp))
      let y := F32.sub x lp
      ∃ t, exec (.hpStep rd ra inst) s = .next t ∧ wroteOnly [.hp] rd y (nvBits [x, lp, y]) s t ∧
        replaced s.hp inst.toNat { u with lp := lp } t.hp) ∧
    (∀ u : Dc, s.dc[inst.toNat]? = some u →
      let y := F32.add (F32.sub x u.x1) (F32.mul u.r u.y1)
      ∃ t, exec (.dcStep rd ra inst) s = .next t ∧ wroteOnly [.dc] rd y (nvBits [x, y]) s t ∧
        replaced s.dc inst.toNat { u with x1 := x, y1 := y } t.dc) ∧
    (∀ u : Li, s.li[inst.toNat]? = some u →
      let frac := s.freg rb
      let y := F32.add u.prev (F32.mul frac (F32.sub x u.prev))
      ∃ t, exec (.liStep rd ra rb inst) s = .next t ∧ wroteOnly [.li] rd y (nvBits [x, frac, y]) s t ∧
        replaced s.li inst.toNat { u with prev := x } t.li)

/-- R195, R196: SC.STEP and BQ.STEP on an instance that exists; SC has no state. The formulas hold also where
the words of R195 and R196 say otherwise (logs 26, 27). -/
def Obligations.ScAndBqStepResults : Prop :=
  ∀ (s : State) (rd ra : Reg) (inst : InstNo),
    let x := s.freg ra
    (∀ u : Sc, s.sc[inst.toNat]? = some u →
      let d := F32.mul x u.drive
      let c := F32.div d (F32.add 0x3F800000 (F32.abs d))
      let y := F32.add x (F32.mul u.mix (F32.sub c x))
      ∃ t, exec (.scStep rd ra inst) s = .next t ∧ wroteOnly [] rd y (nvBits [x, y]) s t) ∧
    (∀ u : Bq, s.bq[inst.toNat]? = some u →
      let acc := F32.sub (F32.sub (F32.add (F32.add (F32.mul u.b0 x) (F32.mul u.b1 u.x1)) (F32.mul u.b2 u.x2))
        (F32.mul u.a1 u.y1)) (F32.mul u.a2 u.y2)
      ∃ t, exec (.bqStep rd ra inst) s = .next t ∧ wroteOnly [.bq] rd acc (nvBits [x, acc]) s t ∧
        replaced s.bq inst.toNat { u with x1 := x, x2 := u.x1, y1 := acc, y2 := u.y1 } t.bq)

/-! ## Buffers and the delay line -/

/-- R82, R83: the sample goes to the slot of the write index and to no other, and the index advances modulo the capacity;
then the sample written k writes ago is the one BufRead gives for k. -/
def Obligations.BufferIsADelayLine : Prop :=
  ∀ (b : Ring) (v : Word), RingOk b →
    let b' := bufWrite b v
    b'.cap = b.cap ∧ b'.w = (b.w + 1) % b.cap ∧ b'.buf.read b.w = v ∧
    (∀ a, a ≠ b.w → b'.buf.read a = b.buf.read a) ∧
    (∀ k, 1 ≤ k → k ≤ b.cap → bufRead b k = b.buf.read (((b.w : Int) - k) % b.cap).toNat) ∧
    bufRead b' 1 = v ∧ (∀ k, 1 ≤ k → k < b.cap → bufRead b' (k + 1) = bufRead b k)

/-- The canonical form of a buffer's contents: equal reads are equal data (log 12). -/
def Obligations.EqualContentsAreEqualData : Prop :=
  ∀ m m' : Memory, m.wf = true → m'.wf = true → (∀ a, m.read a = m'.read a) → m = m'

/-- R84, R223.4: FracRead reads at a delay kept in [1, N - 1] (1 for a NaN), blends the samples written k and k + 1 writes
ago with the exact fraction, where k is the whole part of that delay, 1 ≤ k ≤ N - 1. -/
def Obligations.FracReadBlendsTwoSamples : Prop :=
  ∀ (b : Ring) (dly : Word), RingOk b → 2 ≤ b.cap → b.cap ≤ 2 ^ 24 →
    let dc := if F32.isNaN dly then 0x3F800000 else F32.clamp dly 0x3F800000 (F32.ofInt ((b.cap : Int) - 1))
    ∃ (k : Nat) (fr : Word), 1 ≤ k ∧ k ≤ b.cap - 1 ∧ F32.isFinite dc = true ∧ F32.isFinite fr = true ∧
      ⌊value dc⌋ = (k : Int) ∧ value fr = value dc - k ∧
      fracRead b dly = F32.add (bufRead b k) (F32.mul fr (F32.sub (bufRead b (k + 1)) (bufRead b k)))

/-- R221, R222: DL.WR stores the sample in the slot of the write index, every other slot of every buffer as before; DL.RD
returns the fractional read and changes no unit (a difference of samples that overflows: log 22). -/
def Obligations.DelayLineResults : Prop :=
  ∀ (s : State) (rd ra : Reg) (inst : InstNo) (u : Dl), s.dl[inst.toNat]? = some u →
    let x := s.freg ra
    (RingOk u.ring →
      ∃ t u', exec (.dlWr ra inst) s = .next t ∧ touchedOnly [.dl] (nvBits [x]) s t ∧
        replaced s.dl inst.toNat u' t.dl ∧ u'.ring.cap = u.ring.cap ∧ u'.ring.w = (u.ring.w + 1) % u.ring.cap ∧
        u'.ring.buf.read u.ring.w = x ∧ ∀ a, a ≠ u.ring.w → u'.ring.buf.read a = u.ring.buf.read a) ∧
    (let y := fracRead u.ring x
     ∃ t, exec (.dlRd rd ra inst) s = .next t ∧ wroteOnly [] rd y (nvBits [x, y]) s t)

/-- R222, R223.3: a read at a whole delay d gives the sample written d writes ago: equal as a number, and bit for bit
unless that sample is -0.0, where the samples and their difference are finite
(log 22). -/
def Obligations.WholeDelaysReadSamplesExactly : Prop :=
  ∀ (s t : State) (rd ra : Reg) (inst : InstNo) (u : Dl) (d : Nat),
    s.dl[inst.toNat]? = some u → RingOk u.ring → u.ring.cap ≤ 2 ^ 24 → 1 ≤ d → d ≤ u.ring.cap - 1 →
    s.freg ra = F32.ofInt d →
    F32.isFinite (F32.sub (bufRead u.ring (d + 1)) (bufRead u.ring d)) = true →
    exec (.dlRd rd ra inst) s = .next t →
      F32.eq (t.reg rd) (bufRead u.ring d) = true ∧ (bufRead u.ring d ≠ 0x80000000 → t.reg rd = bufRead u.ring d)

/-! ## Saturation stage, crossover, modulated delay, oscillator -/

/-- R241, R242: DS.STEP and XO.STEP on an instance that exists; XO.STEP with an even rd writes the pair rd, rd + 1.
The formulas hold also where the words of R190, R241 and R242 say otherwise (logs 24, 25). -/
def Obligations.DsAndXoStepResults : Prop :=
  ∀ (s : State) (rd ra : Reg) (inst : InstNo),
    let x := s.freg ra
    (∀ u : Ds, s.ds[inst.toNat]? = some u →
      let v := F32.mul 0x3F22F983 (F32.atan (F32.mul u.k (F32.mul u.gain x)))
      let lp := F32.add u.lp (F32.mul u.a (F32.sub v u.lp))
      let y := F32.sub v lp
      ∃ t, exec (.dsStep rd ra inst) s = .next t ∧ wroteOnly [.ds] rd y (nvBits [x, lp, y]) s t ∧
        replaced s.ds inst.toNat { u with lp := lp } t.ds) ∧
    (∀ u : Xo, s.xo[inst.toNat]? = some u → rd.toNat % 2 = 0 →
      let lp := F32.add u.lp (F32.mul u.a (F32.sub x u.lp))
      let hi := F32.sub x lp
      ∃ t, exec (.xoStep rd ra inst) s = .next t ∧ holds t rd lp ∧ holds t (rd + 1) hi ∧ regsKept [rd, rd + 1] s t ∧
        t.status = s.status ||| nvBits [x, lp, hi] ∧ banksKept [.xo] s t ∧ busKept s t ∧
        replaced s.xo inst.toNat { u with lp := lp } t.xo)

/-- R243: MD.STEP on an instance that exists whose dlsel names a DL instance: it reads that instance's buffer and changes
no unit. Where the parameters are legal dlsel always names one (R40, R42). Where `phi + off` overflows the pseudocode is
followed, not R354 (log 23). -/
def Obligations.MdStepResults : Prop :=
  (∀ (s : State) (rd ra : Reg) (inst : InstNo) (u : Md) (line : Dl),
    s.md[inst.toNat]? = some u → s.dl[(F32.toInt u.dlsel).toNat]? = some line →
      let phi := s.freg ra
      let c := F32.cos2pi (F32.fract (F32.add phi u.off))
      let dly := F32.sub u.base (F32.mul u.swing c)
      let g := F32.sub 0x3F800000 (F32.mul u.am (F32.mul 0x3F000000 (F32.sub 0x3F800000 c)))
      let y := F32.mul g (fracRead line.ring dly)
      ∃ t, exec (.mdStep rd ra inst) s = .next t ∧ wroteOnly [] rd y (nvBits [phi, y]) s t) ∧
  (∀ (s : State) (inst : InstNo) (u : Md), ShapeOk s → ParamsOk s → s.md[inst.toNat]? = some u →
    ∃ line, s.dl[(F32.toInt u.dlsel).toNat]? = some line)

/-- R245: with swing 0 MD.STEP gives its gain times the read at the base delay, whatever the phase, and with am 0 too its
output is that read. The phase is one whose sum with off does not overflow (log 23). -/
def Obligations.ZeroSwingIsAStaticDelay : Prop :=
  ∀ (s t : State) (rd ra : Reg) (inst : InstNo) (u : Md) (line : Dl),
    s.md[inst.toNat]? = some u → s.dl[(F32.toInt u.dlsel).toNat]? = some line →
    inRange 0x3F800000 0x7F7FFFFF u.base → F32.isZero u.swing = true →
    F32.isFinite (F32.add (s.freg ra) u.off) = true → exec (.mdStep rd ra inst) s = .next t →
      t.reg rd = F32.mul (amGain u (s.freg ra)) (fracRead line.ring u.base) ∧
      (F32.isZero u.am = true → amGain u (s.freg ra) = 0x3F800000 ∧ t.reg rd = fracRead line.ring u.base)

/-- R244, R271: NCO.STEP and ENV.STEP on an instance that exists; NCO's output is the phase after the advance. For an
infinite envelope ENV.STEP gives QNAN by the pseudocode of R271 against its Corner cases line (log 20), and NCO.STEP follows
the pseudocode of R244 against its own and R70 (log 28). -/
def Obligations.NcoAndEnvStepResults : Prop :=
  ∀ (s : State) (rd ra : Reg) (inst : InstNo),
    let x := s.freg ra
    (∀ u : Nco, s.nco[inst.toNat]? = some u →
      let f := F32.add u.f (F32.mul u.c (F32.sub x u.f))
      let ph := F32.fract (F32.add u.ph (F32.div f s.fs))
      ∃ t, exec (.ncoStep rd ra inst) s = .next t ∧ wroteOnly [.nco] rd ph (nvBits [x, f, ph]) s t ∧
        replaced s.nco inst.toNat { u with f := f, ph := ph } t.nco) ∧
    (∀ u : Env, s.env[inst.toNat]? = some u →
      let m := F32.abs x
      let e := if F32.lt u.e m then F32.add u.e (F32.mul u.att (F32.sub m u.e))
        else F32.add u.e (F32.mul u.rel (F32.sub m u.e))
      ∃ t, exec (.envStep rd ra inst) s = .next t ∧ wroteOnly [.env] rd e (nvBits [x, e]) s t ∧
        replaced s.env inst.toNat { u with e := e } t.env)

/-- R244, R246: with FS legal and the phase in [0, 1), a step whose new frequency is finite leaves the phase in [0, 1) and
is the output; negative frequencies included. -/
def Obligations.NcoPhaseStaysInTurn : Prop :=
  ∀ (s t : State) (rd ra : Reg) (inst : InstNo) (u u' : Nco), s.nco[inst.toNat]? = some u →
    inRange 0x45FA0000 0x483B8000 s.fs → inTurn u.ph → exec (.ncoStep rd ra inst) s = .next t →
    t.nco[inst.toNat]? = some u' → F32.isFinite u'.f = true → inTurn u'.ph ∧ t.reg rd = u'.ph

/-! ## Envelope and pitch tracker -/

/-- R276, last sentence: on finite values the envelope is never negative, an attack never lowers it and a release never
raises it. -/
def Obligations.EnvelopeMovesTowardTheMagnitude : Prop :=
  ∀ (s t : State) (rd ra : Reg) (inst : InstNo) (u : Env), s.env[inst.toNat]? = some u →
    inRange 0x00000000 0x3F800000 u.att → inRange 0x00000000 0x3F800000 u.rel →
    F32.isFinite (s.freg ra) = true → F32.isFinite u.e = true → F32.le 0x00000000 u.e = true →
    exec (.envStep rd ra inst) s = .next t →
      F32.le 0x00000000 (t.reg rd) = true ∧
      (F32.lt u.e (F32.abs (s.freg ra)) = true → F32.le u.e (t.reg rd) = true) ∧
      (F32.lt u.e (F32.abs (s.freg ra)) = false → F32.le (t.reg rd) u.e = true)

/-- R272: ZC.STEP on an instance that exists: the gate, the counter, the trigger, the update on a crossing and the idle
drift, each register from the old ones. -/
def Obligations.ZcStepResults : Prop :=
  ∀ (s : State) (rd ra rb : Reg) (inst : InstNo) (u : Zc), s.zc[inst.toNat]? = some u →
    let x := s.freg ra
    let env := s.freg rb
    let on := F32.lt u.thOn env
    let off := !on && F32.lt env u.thOff
    let locked := on || (u.locked && !(off && u.hang == 0))
    let hang := if on then (F32.toInt u.hangLen).toNat else if off then u.hang - 1 else u.hang
    let cnt := if u.cnt < 2 ^ 24 then u.cnt + 1 else u.cnt
    let cross := !u.pos && F32.lt u.hyst x
    let pos := cross || (u.pos && !F32.lt x (F32.neg u.hyst))
    let cand := F32.div s.fs (F32.ofInt cnt)
    let dbl := F32.mul 0x40000000 u.f
    let hlf := F32.mul 0x3F000000 u.f
    let folded :=
      if F32.le (F32.abs (F32.sub cand dbl)) (F32.mul u.foldTol dbl) then F32.mul 0x3F000000 cand
      else if F32.le (F32.abs (F32.sub cand hlf)) (F32.mul u.foldTol hlf) then F32.mul 0x40000000 cand
      else cand
    let limited := F32.clamp folded (F32.mul u.f (F32.sub 0x3F800000 u.maxJump))
      (F32.mul u.f (F32.add 0x3F800000 u.maxJump))
    let f :=
      if locked then
        if cross && F32.le u.fMin cand && F32.le cand u.fMax then
          F32.clamp (F32.add u.f (F32.mul u.smooth (F32.sub limited u.f))) u.fMin u.fMax
        else u.f
      else F32.clamp (F32.add u.f (F32.mul u.drift (F32.sub u.fIdle u.f))) u.fMin u.fMax
    ∃ t, exec (.zcStep rd ra rb inst) s = .next t ∧ wroteOnly [.zc] rd f (nvBits [x, env, f]) s t ∧
      replaced s.zc inst.toNat
        { u with cnt := if cross then 0 else cnt, pos := pos, f := f, locked := locked, hang := hang } t.zc

/-- R273: after a step with `env > th_on` the gate is locked, and through later steps with no `env > th_on` it stays locked
exactly as long as at most hang_len of them had `env < th_off`. -/
def Obligations.GateHoldsForItsHangTime : Prop :=
  ∀ (z : Zc) (fs x₀ env₀ : Word) (later : List (Word × Word)),
    F32.lt z.thOn env₀ = true → (∀ p ∈ later, F32.lt z.thOn p.2 = false) →
      (later.foldl (fun z p => zcStep z fs p.1 p.2) (zcStep z fs x₀ env₀)).locked =
        decide (later.countP (fun p => F32.lt p.2 z.thOff) ≤ (F32.toInt z.hangLen).toNat)

/-- R274: with f_min ≤ f_max and legal values, ZC.STEP leaves the tracked frequency as it was in a step that is locked and
has no crossing or a candidate out of range, and in [f_min, f_max] in every other step. -/
def Obligations.TrackedFrequencyStaysInRange : Prop :=
  ∀ (s t : State) (rd ra rb : Reg) (inst : InstNo) (u u' : Zc),
    ShapeOk s → ParamsOk s → TrackersOk s → s.zc[inst.toNat]? = some u → F32.le u.fMin u.fMax = true →
    exec (.zcStep rd ra rb inst) s = .next t → t.zc[inst.toNat]? = some u' →
      let cross := !u.pos && F32.lt u.hyst (s.freg ra)
      let cand := F32.div s.fs (F32.ofInt (if u.cnt < 2 ^ 24 then u.cnt + 1 else u.cnt))
      if u'.locked = true ∧ (cross = false ∨ ¬ inRange u.fMin u.fMax cand) then u'.f = u.f
      else inRange u.fMin u.fMax u'.f

/-! ## Pitch shifter -/

/-- R301: GP.STEP on an instance that exists: the input is written first, the four grains are read, weighted, summed in
order and normalized, and the phases move by the time-warp step; every other slot of every buffer is as before.
The formulas hold also where the words of R301 and R302 say otherwise of the phases and the sums (logs 29, 31). -/
def Obligations.GpStepResults : Prop :=
  ∀ (s : State) (rd ra : Reg) (inst : InstNo) (u : Gp), s.gp[inst.toNat]? = some u → RingOk u.ring →
    let x := s.freg ra
    let b := bufWrite u.ring x
    let win := fun p : Word => F32.mul 0x3F000000 (F32.sub 0x3F800000 (F32.cos2pi p))
    let v := fun p : Word => F32.mul (win p) (fracRead b (F32.add 0x3F800000 (F32.mul p u.glen)))
    let num := F32.add (F32.add (F32.add (F32.add 0x00000000 (v u.p0)) (v u.p1)) (v u.p2)) (v u.p3)
    let den := F32.add (F32.add (F32.add (F32.add 0x00000000 (win u.p0)) (win u.p1)) (win u.p2)) (win u.p3)
    let y := if F32.lt 0x00000000 den then F32.div num den else 0x00000000
    let adv := fun p : Word => F32.fract (F32.add p (F32.div (F32.sub 0x3F800000 u.ratio) u.glen))
    ∃ t u', exec (.gpStep rd ra inst) s = .next t ∧ wroteOnly [.gp] rd y (nvBits [x, y]) s t ∧
      replaced s.gp inst.toNat u' t.gp ∧
      { u with p0 := adv u.p0, p1 := adv u.p1, p2 := adv u.p2, p3 := adv u.p3, ring := u'.ring } = u' ∧
      u'.ring.cap = u.ring.cap ∧ u'.ring.w = (u.ring.w + 1) % u.ring.cap ∧ u'.ring.buf.read u.ring.w = x ∧
      ∀ a, a ≠ u.ring.w → u'.ring.buf.read a = u.ring.buf.read a

/-! ## Silence -/

/-- R354: from reset, zero in is zero out, unit by unit. An instance whose float state and buffer hold only ±0.0, stepped
with an input of ±0.0 under legal parameters, gives ±0.0 and keeps them at ±0.0: BQ, LP, HP, SC, DC, DS, XO, ENV, LI with a
finite fraction, DL (both commands), GP with its phases in [0, 1). MD over a silent delay line gives ±0.0 for every finite
phase whose sum with off is finite; where that sum overflows R243 gives QNAN and is followed (log 23). -/
def Obligations.FiltersStaySilent : Prop :=
  (∀ (s t : State) (rd ra rb : Reg) (inst : InstNo), ShapeOk s → ParamsOk s → F32.isZero (s.reg ra) = true →
    (∀ u, s.bq[inst.toNat]? = some u → F32.isZero u.x1 = true → F32.isZero u.x2 = true → F32.isZero u.y1 = true →
      F32.isZero u.y2 = true → exec (.bqStep rd ra inst) s = .next t → F32.isZero (t.reg rd) = true ∧
        ∀ u', t.bq[inst.toNat]? = some u' → F32.isZero u'.x1 = true ∧ F32.isZero u'.x2 = true ∧
          F32.isZero u'.y1 = true ∧ F32.isZero u'.y2 = true) ∧
    (∀ u, s.lp[inst.toNat]? = some u → F32.isZero u.y = true → exec (.lpStep rd ra inst) s = .next t →
      F32.isZero (t.reg rd) = true ∧ ∀ u', t.lp[inst.toNat]? = some u' → F32.isZero u'.y = true) ∧
    (∀ u, s.hp[inst.toNat]? = some u → F32.isZero u.lp = true → exec (.hpStep rd ra inst) s = .next t →
      F32.isZero (t.reg rd) = true ∧ ∀ u', t.hp[inst.toNat]? = some u' → F32.isZero u'.lp = true) ∧
    (∀ u, s.sc[inst.toNat]? = some u → exec (.scStep rd ra inst) s = .next t → F32.isZero (t.reg rd) = true) ∧
    (∀ u, s.dc[inst.toNat]? = some u → F32.isZero u.x1 = true → F32.isZero u.y1 = true →
      exec (.dcStep rd ra inst) s = .next t → F32.isZero (t.reg rd) = true ∧
        ∀ u', t.dc[inst.toNat]? = some u' → F32.isZero u'.x1 = true ∧ F32.isZero u'.y1 = true) ∧
    (∀ u, s.li[inst.toNat]? = some u → F32.isZero u.prev = true → F32.isFinite (s.reg rb) = true →
      exec (.liStep rd ra rb inst) s = .next t → F32.isZero (t.reg rd) = true ∧
        ∀ u', t.li[inst.toNat]? = some u' → F32.isZero u'.prev = true) ∧
    (∀ u, s.ds[inst.toNat]? = some u → F32.isZero u.lp = true → exec (.dsStep rd ra inst) s = .next t →
      F32.isZero (t.reg rd) = true ∧ ∀ u', t.ds[inst.toNat]? = some u' → F32.isZero u'.lp = true) ∧
    (∀ u, s.xo[inst.toNat]? = some u → F32.isZero u.lp = true → rd.toNat % 2 = 0 → exec (.xoStep rd ra inst) s = .next t →
      F32.isZero (t.reg rd) = true ∧ F32.isZero (t.reg (rd + 1)) = true ∧
        ∀ u', t.xo[inst.toNat]? = some u' → F32.isZero u'.lp = true) ∧
    (∀ u, s.env[inst.toNat]? = some u → F32.isZero u.e = true → exec (.envStep rd ra inst) s = .next t →
      F32.isZero (t.reg rd) = true ∧ ∀ u', t.env[inst.toNat]? = some u' → F32.isZero u'.e = true) ∧
    (∀ u, s.dl[inst.toNat]? = some u → RingOk u.ring → RingSilent u.ring →
      (exec (.dlRd rd ra inst) s = .next t → F32.isZero (t.reg rd) = true ∧ t.dl = s.dl) ∧
      (exec (.dlWr ra inst) s = .next t → ∀ u', t.dl[inst.toNat]? = some u' → RingSilent u'.ring)) ∧
    (∀ u, s.gp[inst.toNat]? = some u → RingOk u.ring → RingSilent u.ring →
      inTurn u.p0 → inTurn u.p1 → inTurn u.p2 → inTurn u.p3 → exec (.gpStep rd ra inst) s = .next t →
        F32.isZero (t.reg rd) = true ∧ ∀ u', t.gp[inst.toNat]? = some u' → RingSilent u'.ring)) ∧
  ∀ (s t : State) (rd ra : Reg) (inst : InstNo) (u : Md) (line : Dl), ShapeOk s → ParamsOk s →
    s.md[inst.toNat]? = some u → s.dl[(F32.toInt u.dlsel).toNat]? = some line → RingSilent line.ring →
    F32.isFinite (s.reg ra) = true → exec (.mdStep rd ra inst) s = .next t →
      t.dl = s.dl ∧
      (F32.isFinite (F32.add (s.reg ra) u.off) = true → F32.isZero (t.reg rd) = true) ∧
      (F32.isFinite (F32.add (s.reg ra) u.off) = false → t.reg rd = 0x7FC00000)
end

