-- ==== Sys2Proof/Laws/Float.lean ====
section
/-! SUPPORT. Binary32 arithmetic: the fields of a packed word, the order of the magnitudes, and what one rounding can do
(monotone, exact on representable values). -/

namespace Sys2Proof.Machine.F32

/-! ## Packed words -/

theorem magBits_lt (x : Word) : magBits x < 2 ^ 31 := Nat.mod_lt _ (by decide)

theorem pack_toNat (b : Bool) {m : Nat} (h : m < 2 ^ 31) : (pack b m).toNat = (if b then 2 ^ 31 else 0) + m := by
  unfold pack
  rw [BitVec.toNat_ofNat, Nat.mod_eq_of_lt]
  cases b <;> simp <;> omega

@[simp] theorem magBits_pack (b : Bool) {m : Nat} (h : m < 2 ^ 31) : magBits (pack b m) = m := by
  unfold magBits
  rw [pack_toNat b h]
  cases b <;> simp <;> omega

@[simp] theorem sign_pack (b : Bool) {m : Nat} (h : m < 2 ^ 31) : sign (pack b m) = b := by
  unfold sign
  rw [BitVec.msb_eq_decide, pack_toNat b h]
  cases b <;> simp <;> omega

theorem sign_eq_decide (x : Word) : sign x = decide (2 ^ 31 ≤ x.toNat) := by
  unfold sign
  rw [BitVec.msb_eq_decide]

/-- A word is its sign and its magnitude bits. -/
theorem pack_sign_magBits (x : Word) : pack (sign x) (magBits x) = x := by
  apply BitVec.eq_of_toNat_eq
  rw [pack_toNat _ (magBits_lt x), sign_eq_decide]
  have := x.isLt
  unfold magBits
  by_cases h : 2 ^ 31 ≤ x.toNat
  · rw [decide_eq_true h, if_pos rfl]; omega
  · rw [decide_eq_false h, if_neg Bool.false_ne_true]; omega

theorem word_ext {x y : Word} (hs : sign x = sign y) (hm : magBits x = magBits y) : x = y := by
  rw [← pack_sign_magBits x, ← pack_sign_magBits y, hs, hm]

/-! ## Classes -/

theorem isNaN_iff {x : Word} : isNaN x = true ↔ infBits < magBits x := by simp [isNaN]
theorem isInf_iff {x : Word} : isInf x = true ↔ magBits x = infBits := by simp [isInf]
theorem isFinite_iff {x : Word} : isFinite x = true ↔ magBits x < infBits := by simp [isFinite]
theorem isZero_iff {x : Word} : isZero x = true ↔ magBits x = 0 := by simp [isZero]
theorem isNaN_false_iff {x : Word} : isNaN x = false ↔ magBits x ≤ infBits := by simp [isNaN]

theorem isNaN_of_isFinite {x : Word} (h : isFinite x = true) : isNaN x = false := by
  rw [isFinite_iff] at h; rw [isNaN_false_iff]; omega

theorem isInf_of_isFinite {x : Word} (h : isFinite x = true) : isInf x = false := by
  rw [isFinite_iff] at h; simp [isInf]; omega

@[simp] theorem isNaN_qnan : isNaN qnan = true := by decide
@[simp] theorem canon_qnan : canon qnan = qnan := by decide
@[simp] theorem isNaN_zero : isNaN zero = false := by decide
@[simp] theorem isNaN_one : isNaN one = false := by decide

@[simp] theorem isNaN_canon (x : Word) : isNaN (canon x) = isNaN x := by
  unfold canon; split <;> simp_all

theorem canon_of_not_isNaN {x : Word} (h : isNaN x = false) : canon x = x := by simp [canon, h]

@[simp] theorem canon_canon (x : Word) : canon (canon x) = canon x := by
  unfold canon; split <;> simp_all

/-! ## Magnitudes -/

theorem magUnits_small {m : Nat} (h : m < 2 ^ 24) : magUnits m = m := by
  unfold magUnits
  by_cases h0 : m / 2 ^ 23 = 0
  · rw [if_pos h0]; omega
  · have : m / 2 ^ 23 = 1 := by omega
    rw [if_neg h0, this]; simp; omega

/-- Magnitude bits as an exponent step `k` above a significand of 24 bits. -/
theorem magUnits_normal {k m : Nat} (h1 : 2 ^ 23 ≤ m) (h2 : m < 2 ^ 24) :
    magUnits (k * 2 ^ 23 + m) = m * 2 ^ k := by
  unfold magUnits
  have e1 : (k * 2 ^ 23 + m) / 2 ^ 23 = k + 1 := by omega
  have e2 : (k * 2 ^ 23 + m) % 2 ^ 23 = m - 2 ^ 23 := by omega
  rw [if_neg (by omega), e1, e2, Nat.add_sub_cancel, Nat.add_sub_of_le h1]

/-- Every magnitude beyond the subnormals has that form. -/
theorem magBits_normal_form {b : Nat} (h : 2 ^ 23 ≤ b) :
    ∃ k m, b = k * 2 ^ 23 + m ∧ 2 ^ 23 ≤ m ∧ m < 2 ^ 24 :=
  ⟨b / 2 ^ 23 - 1, b % 2 ^ 23 + 2 ^ 23, by omega, by omega, by omega⟩

theorem magUnits_succ_le (b : Nat) : magUnits b < magUnits (b + 1) := by
  by_cases hb : b < 2 ^ 23
  · rw [magUnits_small (by omega), magUnits_small (by omega)]; omega
  · obtain ⟨k, m, rfl, h1, h2⟩ := magBits_normal_form (Nat.le_of_not_lt hb)
    rw [magUnits_normal h1 h2]
    by_cases hm : m + 1 < 2 ^ 24
    · rw [Nat.add_assoc, magUnits_normal (by omega) hm]
      exact Nat.mul_lt_mul_of_pos_right (Nat.lt_succ_self m) (Nat.two_pow_pos k)
    · have hm' : m + 1 = 2 ^ 24 := by omega
      have : k * 2 ^ 23 + m + 1 = (k + 1) * 2 ^ 23 + 2 ^ 23 := by omega
      rw [this, magUnits_normal (by omega) (by omega), Nat.pow_succ]
      have : m * 2 ^ k < 2 ^ 24 * 2 ^ k := Nat.mul_lt_mul_of_pos_right h2 (Nat.two_pow_pos k)
      omega

/-- The magnitudes are in the order of their bits. -/
theorem magUnits_strictMono : StrictMono magUnits := strictMono_nat_of_lt_succ magUnits_succ_le

@[simp] theorem magUnits_zero : magUnits 0 = 0 := by decide

theorem magUnits_eq_zero {m : Nat} : magUnits m = 0 ↔ m = 0 := by
  constructor
  · intro h
    by_contra hm
    have := magUnits_strictMono (Nat.pos_of_ne_zero hm)
    rw [magUnits_zero] at this
    omega
  · rintro rfl; simp

/-! ## Rounding -/

/-- The significand of `n / d` rounded to a multiple of `2 ^ k`, ties to even. -/
def significand (n d k : Nat) : Nat :=
  n / (d * 2 ^ k) + (if d * 2 ^ k < 2 * (n % (d * 2 ^ k)) ∨
    (2 * (n % (d * 2 ^ k)) = d * 2 ^ k ∧ n / (d * 2 ^ k) % 2 = 1) then 1 else 0)

theorem roundMag_eq (n d : Nat) : roundMag n d =
    min ((Nat.log2 (n / d) - 23) * 2 ^ 23 + significand n d (Nat.log2 (n / d) - 23)) infBits := rfl

theorem roundMag_le (n d : Nat) : roundMag n d ≤ infBits := Nat.min_le_right _ _

theorem roundMag_lt (n d : Nat) : roundMag n d < 2 ^ 31 := (roundMag_le n d).trans_lt (by decide)

@[simp] theorem roundMag_zero (d : Nat) : roundMag 0 d = 0 := by
  simp [roundMag, Nat.log2_zero, infBits]

/-- The significand of an exact multiple. -/
theorem significand_exact {m d k : Nat} (hd : 0 < d) : significand (m * 2 ^ k * d) d k = m := by
  have hp : 0 < d * 2 ^ k := Nat.mul_pos hd (Nat.two_pow_pos k)
  have e : m * 2 ^ k * d = m * (d * 2 ^ k) := by ring
  unfold significand
  rw [e, Nat.mul_div_cancel _ hp, Nat.mul_mod_left]
  simp only [Nat.mul_zero]
  rw [if_neg (by omega)]
  rfl

theorem log2_significand {k m : Nat} (h1 : 2 ^ 23 ≤ m) (h2 : m < 2 ^ 24) : Nat.log2 (m * 2 ^ k) = 23 + k := by
  have hpos : m * 2 ^ k ≠ 0 := Nat.mul_ne_zero (by omega) (Nat.two_pow_pos k).ne'
  rw [Nat.log2_eq_iff hpos]
  constructor
  · rw [Nat.pow_add]; exact Nat.mul_le_mul_right _ h1
  · rw [show 23 + k + 1 = 24 + k by omega, Nat.pow_add]
    exact Nat.mul_lt_mul_of_pos_right h2 (Nat.two_pow_pos k)

/-- Rounding is exact on every representable magnitude. -/
theorem roundMag_exact {m d : Nat} (hm : m ≤ infBits) (hd : 0 < d) : roundMag (magUnits m * d) d = m := by
  rw [roundMag_eq, Nat.mul_div_cancel _ hd]
  by_cases hb : m < 2 ^ 23
  · rw [magUnits_small (by omega)]
    have hk : Nat.log2 m - 23 = 0 := by
      by_cases h0 : m = 0
      · simp [h0]
      · have := (Nat.log2_lt h0 (k := 23)).2 hb
        omega
    rw [hk]
    have := significand_exact (m := m) (k := 0) hd
    simp only [Nat.pow_zero, Nat.mul_one] at this
    rw [this]
    omega
  · obtain ⟨k, s, rfl, h1, h2⟩ := magBits_normal_form (Nat.le_of_not_lt hb)
    rw [magUnits_normal h1 h2, log2_significand h1 h2, show 23 + k - 23 = k by omega, significand_exact hd]
    omega

/-- `n / d ≤ n' / d'` as fractions gives the same order of the significands on one grid. -/
theorem significand_mono {n d n' d' k : Nat} (hd : 0 < d) (hd' : 0 < d') (h : n * d' ≤ n' * d) :
    significand n d k ≤ significand n' d' k := by
  have hp : 0 < d * 2 ^ k := Nat.mul_pos hd (Nat.two_pow_pos k)
  have hp' : 0 < d' * 2 ^ k := Nat.mul_pos hd' (Nat.two_pow_pos k)
  have hc : n * (d' * 2 ^ k) ≤ n' * (d * 2 ^ k) := by
    have := Nat.mul_le_mul_right (2 ^ k) h
    calc n * (d' * 2 ^ k) = n * d' * 2 ^ k := by ring
      _ ≤ n' * d * 2 ^ k := this
      _ = n' * (d * 2 ^ k) := by ring
  unfold significand
  generalize d * 2 ^ k = p at *
  generalize d' * 2 ^ k = p' at *
  have e := Nat.div_add_mod n p
  have e' := Nat.div_add_mod n' p'
  have hr := Nat.mod_lt n hp
  have hr' := Nat.mod_lt n' hp'
  generalize n / p = q at *
  generalize n' / p' = q' at *
  generalize n % p = r at *
  generalize n' % p' = r' at *
  subst n n'
  -- (p q + r) p' ≤ (p' q' + r') p
  have hqq : q ≤ q' := by
    by_contra hlt
    have hlt : q' + 1 ≤ q := by omega
    have h1 : p * (q' + 1) * p' ≤ p * q * p' :=
      Nat.mul_le_mul_right _ (Nat.mul_le_mul_left _ hlt)
    have h2 : r' * p < p' * p := Nat.mul_lt_mul_of_pos_right hr' hp
    nlinarith
  by_cases hq : q = q'
  · subst q'
    have hrr : r * p' ≤ r' * p := by nlinarith
    have up1 : p < 2 * r → p' < 2 * r' := by
      intro hu
      by_contra hn
      have hn : 2 * r' ≤ p' := by omega
      have : p * p' < 2 * r * p' := Nat.mul_lt_mul_of_pos_right hu hp'
      have : 2 * r' * p ≤ p' * p := Nat.mul_le_mul_right _ hn
      nlinarith
    have up2 : 2 * r = p → p' ≤ 2 * r' := by
      intro hu
      by_contra hn
      have hn : 2 * r' < p' := by omega
      have : 2 * r' * p < p' * p := Nat.mul_lt_mul_of_pos_right hn hp
      nlinarith
    apply Nat.add_le_add_left
    split
    · rename_i hu
      rw [if_pos]
      rcases hu with hu | ⟨hu, ho⟩
      · exact .inl (up1 hu)
      · rcases Nat.lt_or_ge p' (2 * r') with h | h
        · exact .inl h
        · exact .inr ⟨le_antisymm h (up2 hu), ho⟩
    · split <;> omega
  · have : q + 1 ≤ q' := by omega
    refine le_trans ?_ (Nat.le_add_right _ _)
    split <;> omega

/-- A significand of a quotient below `2 ^ 24` places never passes `2 ^ 24`. -/
theorem significand_le {n d k : Nat} (h : n / (d * 2 ^ k) < 2 ^ 24) : significand n d k ≤ 2 ^ 24 := by
  unfold significand; split <;> omega

theorem div_place {n d k : Nat} : n / (d * 2 ^ k) = n / d / 2 ^ k := (Nat.div_div_eq_div_mul n d (2 ^ k)).symm

/-- With the exponent step that `roundMag` takes, the significand has 24 bits. -/
theorem quotient_lt {n d : Nat} : n / (d * 2 ^ (Nat.log2 (n / d) - 23)) < 2 ^ 24 := by
  rw [div_place]
  by_cases h0 : n / d = 0
  · simp [h0]
  · have h1 : n / d < 2 ^ (Nat.log2 (n / d) + 1) := Nat.lt_log2_self
    rw [Nat.div_lt_iff_lt_mul (Nat.two_pow_pos _), ← Nat.pow_add]
    exact h1.trans_le (Nat.pow_le_pow_right (by decide) (by omega))

theorem quotient_ge {n d : Nat} (h : 0 < Nat.log2 (n / d) - 23) :
    2 ^ 23 ≤ n / (d * 2 ^ (Nat.log2 (n / d) - 23)) := by
  rw [div_place]
  have h0 : n / d ≠ 0 := by rintro h0; simp [h0] at h
  have h1 : 2 ^ Nat.log2 (n / d) ≤ n / d := Nat.log2_self_le h0
  rw [Nat.le_div_iff_mul_le (Nat.two_pow_pos _), ← Nat.pow_add]
  exact (Nat.pow_le_pow_right (by decide) (by omega)).trans h1

/-- Rounding is monotone. -/
theorem roundMag_mono {n d n' d' : Nat} (hd : 0 < d) (hd' : 0 < d') (h : n * d' ≤ n' * d) :
    roundMag n d ≤ roundMag n' d' := by
  have hq : n / d ≤ n' / d' := by
    rw [Nat.le_div_iff_mul_le hd']
    have h1 : n / d * d ≤ n := Nat.div_mul_le_self n d
    have h2 : n / d * d' * d ≤ n' * d := by
      calc n / d * d' * d = n / d * d * d' := by ring
        _ ≤ n * d' := Nat.mul_le_mul_right _ h1
        _ ≤ n' * d := h
    exact Nat.le_of_mul_le_mul_right h2 hd
  have hl : Nat.log2 (n / d) ≤ Nat.log2 (n' / d') := by
    by_cases h0 : n / d = 0
    · simp [h0]
    · have h0' : n' / d' ≠ 0 := fun e => h0 (Nat.le_zero.mp (e ▸ hq))
      rw [Nat.le_log2 h0']
      exact (Nat.log2_self_le h0).trans hq
  rw [roundMag_eq, roundMag_eq]
  apply min_le_min_right
  by_cases he : Nat.log2 (n / d) - 23 = Nat.log2 (n' / d') - 23
  · rw [he]
    exact Nat.add_le_add_left (significand_mono hd hd' h) _
  · have h1 := significand_le (quotient_lt (n := n) (d := d))
    have h2 : 2 ^ 23 ≤ significand n' d' (Nat.log2 (n' / d') - 23) :=
      (quotient_ge (n := n') (d := d') (by omega)).trans (Nat.le_add_right _ _)
    omega

/-- A value at most a representable one rounds to at most it. -/
theorem roundMag_le_of_le {n d m : Nat} (hm : m ≤ infBits) (hd : 0 < d) (h : n ≤ magUnits m * d) : roundMag n d ≤ m := by
  have := roundMag_mono (n := n) (d := d) (n' := magUnits m * d) (d' := d) hd hd (Nat.mul_le_mul_right d h)
  rwa [roundMag_exact hm hd] at this

/-- A value at least a representable one rounds to at least it. -/
theorem le_roundMag_of_le {n d m : Nat} (hm : m ≤ infBits) (hd : 0 < d) (h : magUnits m * d ≤ n) : m ≤ roundMag n d := by
  have := roundMag_mono (n := magUnits m * d) (d := d) (n' := n) (d' := d) hd hd (Nat.mul_le_mul_right d h)
  rwa [roundMag_exact hm hd] at this

@[simp] theorem magBits_round (b : Bool) (n d : Nat) : magBits (round b n d) = roundMag n d :=
  magBits_pack b (roundMag_lt n d)

@[simp] theorem sign_round (b : Bool) (n d : Nat) : sign (round b n d) = b := sign_pack b (roundMag_lt n d)

/-- A rounding never gives a NaN. -/
@[simp] theorem isNaN_round (b : Bool) (n d : Nat) : isNaN (round b n d) = false := by
  rw [isNaN_false_iff, magBits_round]; exact roundMag_le n d

/-! ## Comparisons and clamp32 -/

theorem lt_iff {x y : Word} : lt x y = true ↔ isNaN x = false ∧ isNaN y = false ∧ key x < key y := by
  simp [lt, and_assoc]

theorem le_iff {x y : Word} : le x y = true ↔ isNaN x = false ∧ isNaN y = false ∧ key x ≤ key y := by
  simp [le, and_assoc]

theorem eq_iff {x y : Word} : eq x y = true ↔ isNaN x = false ∧ isNaN y = false ∧ key x = key y := by
  simp [eq, and_assoc]

theorem le_trans' {x y z : Word} (h1 : le x y = true) (h2 : le y z = true) : le x z = true := by
  rw [le_iff] at *; exact ⟨h1.1, h2.2.1, h1.2.2.trans h2.2.2⟩

theorem le_refl' {x : Word} (h : isNaN x = false) : le x x = true := by
  rw [le_iff]; exact ⟨h, h, le_rfl⟩

/-- R16: with `lo ≤ hi`, clamp32 of a value that is no NaN lies in the range. -/
theorem clamp_inRange {x lo hi : Word} (hx : isNaN x = false) (h : le lo hi = true) :
    le lo (clamp x lo hi) = true ∧ le (clamp x lo hi) hi = true := by
  obtain ⟨hlo, hhi, hk⟩ := le_iff.1 h
  simp only [clamp]
  by_cases h1 : lt x lo = true
  · have h2 : lt hi lo = false := by
      rw [Bool.eq_false_iff, Ne, lt_iff]; rintro ⟨_, _, h3⟩; omega
    simp [h1, h2, h, le_refl' hlo]
  · simp only [h1, if_false, Bool.false_eq_true]
    have h1' : key lo ≤ key x := by
      by_contra hc; exact h1 (lt_iff.2 ⟨hx, hlo, by omega⟩)
    by_cases h2 : lt hi x = true
    · simp [h2, h, le_refl' hhi]
    · have h2' : key x ≤ key hi := by
        by_contra hc; exact h2 (lt_iff.2 ⟨hhi, hx, by omega⟩)
      simp [h2, le_iff, hx, hlo, hhi, h1', h2']

/-- R16: a value in the range is returned unchanged. -/
theorem clamp_of_inRange {x lo hi : Word} (h1 : le lo x = true) (h2 : le x hi = true) : clamp x lo hi = x := by
  rw [le_iff] at h1 h2
  have e1 : lt x lo = false := by rw [Bool.eq_false_iff, Ne, lt_iff]; rintro ⟨_, _, h3⟩; omega
  have e2 : lt hi x = false := by rw [Bool.eq_false_iff, Ne, lt_iff]; rintro ⟨_, _, h3⟩; omega
  simp [clamp, e1, e2]

/-- R16: a NaN passes through. -/
theorem clamp_isNaN {x lo hi : Word} (h : isNaN x = true) : clamp x lo hi = x := by
  simp [clamp, lt, h]

/-! ## NaN results are canonical (R19) -/

theorem add_isNaN_left {x y : Word} (h : isNaN x = true) : add x y = qnan := by simp [add, h]
theorem add_isNaN_right {x y : Word} (h : isNaN y = true) : add x y = qnan := by simp [add, h]
theorem mul_isNaN_left {x y : Word} (h : isNaN x = true) : mul x y = qnan := by simp [mul, h]
theorem mul_isNaN_right {x y : Word} (h : isNaN y = true) : mul x y = qnan := by simp [mul, h]

theorem pack_inf_not_nan (b : Bool) : isNaN (pack b infBits) = false := by cases b <;> decide

theorem pack_zero_not_nan (b : Bool) : isNaN (pack b 0) = false := by cases b <;> decide

theorem add_canon (x y : Word) : canon (add x y) = add x y := by
  unfold add
  split
  · simp
  · rename_i h
    simp only [Bool.or_eq_true, not_or, Bool.not_eq_true] at h
    split
    · split
      · simp
      · exact canon_of_not_isNaN h.1
    · split
      · exact canon_of_not_isNaN h.2
      · dsimp only
        split
        · split <;> decide
        · exact canon_of_not_isNaN (isNaN_round ..)

theorem mul_canon (x y : Word) : canon (mul x y) = mul x y := by
  unfold mul
  split
  · simp
  · split
    · split
      · simp
      · exact canon_of_not_isNaN (pack_inf_not_nan _)
    · exact canon_of_not_isNaN (isNaN_round ..)

theorem div_canon (x y : Word) : canon (div x y) = div x y := by
  unfold div
  split
  · simp
  · split
    · split
      · simp
      · exact canon_of_not_isNaN (pack_inf_not_nan _)
    · split
      · exact canon_of_not_isNaN (pack_zero_not_nan _)
      · split
        · split
          · simp
          · exact canon_of_not_isNaN (pack_inf_not_nan _)
        · exact canon_of_not_isNaN (isNaN_round ..)

theorem neg_canon (x : Word) : canon (neg x) = neg x := by
  unfold neg
  split
  · simp
  · rename_i h
    refine canon_of_not_isNaN ?_
    rw [Bool.not_eq_true] at h
    rw [isNaN_false_iff] at h ⊢
    have : magBits (x ^^^ 0x80000000) = magBits x := by
      unfold magBits
      rw [BitVec.toNat_xor]
      apply Nat.eq_of_testBit_eq
      intro i
      simp only [Nat.testBit_mod_two_pow, Nat.testBit_xor]
      by_cases hi : i < 31
      · have : (2147483648 : Nat).testBit i = false := by
          rw [show (2147483648 : Nat) = 2 ^ 31 by rfl, Nat.testBit_two_pow_of_ne (by omega)]
        simp [hi, this]
      · simp [hi]
    omega

end Sys2Proof.Machine.F32
end

