-- ==== Sys2Proof/Laws/Memory.lean ====
section
/-! SUPPORT. Sample buffers: reading after writing, and the canonical form that every operation keeps. -/

namespace Sys2Proof.Machine

@[simp] theorem empty_read (a : Nat) : Memory.empty.read a = Memory.unlisted := rfl
@[simp] theorem empty_wf : Memory.empty.wf = true := rfl
@[simp] theorem empty_within (cap : Nat) : Memory.empty.within cap = true := rfl

/-- A lower bound on the indices of a canonical list. -/
theorem cellsWf_bound {b : Nat} : ∀ {l : List Slot}, cellsWf (some b) l = true → ∀ c ∈ l, b < c.1
  | [], _, _, h => by cases h
  | (k, v) :: rest, h, c, hc => by
    simp only [cellsWf, Bool.and_eq_true, decide_eq_true_eq] at h
    rcases List.mem_cons.mp hc with rfl | hc
    · exact h.1.1
    · exact h.1.1.trans (cellsWf_bound h.2 c hc)

theorem readCells_of_lt {a : Nat} : ∀ {l : List Slot}, (∀ c ∈ l, a < c.1) → readCells l a = Memory.unlisted
  | [], _ => rfl
  | (k, v) :: rest, h => by
    have hk : a < k := h (k, v) (List.mem_cons_self ..)
    simp only [readCells, if_neg (Nat.ne_of_gt hk)]
    exact readCells_of_lt fun c hc => h c (List.mem_cons_of_mem _ hc)

theorem cellsWf_weaken {lo lo' : Option Nat} {l : List Slot} (h : cellsWf lo l = true)
    (hb : ∀ b, lo' = some b → ∀ c ∈ l.head?, b < c.1) : cellsWf lo' l = true := by
  cases l with
  | nil => rfl
  | cons c rest =>
    obtain ⟨k, v⟩ := c
    simp only [cellsWf, Bool.and_eq_true] at h ⊢
    refine ⟨⟨?_, h.1.2⟩, h.2⟩
    cases lo' with
    | none => rfl
    | some b => simpa using hb b rfl (k, v) (by simp)

theorem readCells_entryFor {a b : Nat} {v : Word} {rest : List Slot} (h : ∀ c ∈ rest, a < c.1) :
    readCells (entryFor a v rest) b = if b = a then v else readCells rest b := by
  by_cases hv : v = Memory.unlisted
  · simp only [entryFor, if_pos hv]
    split
    · subst b; rw [readCells_of_lt h, hv]
    · rfl
  · simp only [entryFor, if_neg hv, readCells]
    by_cases hb : b = a
    · simp [hb]
    · rw [if_neg (Ne.symm hb), if_neg hb]

/-- Reading a slot after a write, over canonical contents. -/
theorem readCells_writeCells {a b : Nat} {v : Word} : ∀ {lo : Option Nat} {l : List Slot}, cellsWf lo l = true →
    readCells (writeCells l a v) b = if b = a then v else readCells l b
  | _, [], _ => by
    simp only [writeCells]
    rw [readCells_entryFor (by simp)]
  | lo, (k, w) :: rest, h => by
    simp only [cellsWf, Bool.and_eq_true] at h
    have hk := cellsWf_bound h.2
    unfold writeCells
    by_cases h1 : a < k
    · rw [if_pos h1, readCells_entryFor]
      intro c hc
      rcases List.mem_cons.mp hc with rfl | hc
      · exact h1
      · exact h1.trans (hk c hc)
    · rw [if_neg h1]
      by_cases h2 : a = k
      · subst a
        rw [if_pos rfl, readCells_entryFor hk]
        by_cases hb : b = k
        · simp [hb]
        · rw [if_neg hb, if_neg hb, readCells, if_neg (Ne.symm hb)]
      · rw [if_neg h2]
        simp only [readCells]
        rw [readCells_writeCells h.2]
        by_cases hb : b = a
        · subst b; simp [Ne.symm h2]
        · simp [hb]

theorem mem_writeCells {a : Nat} {v : Word} {c : Slot} : ∀ {l : List Slot}, c ∈ writeCells l a v → c = (a, v) ∨ c ∈ l
  | [], h => by
    simp only [writeCells, entryFor] at h
    split at h
    · cases h
    · exact .inl (by simpa using h)
  | (k, w) :: rest, h => by
    unfold writeCells entryFor at h
    split at h
    · split at h
      · exact .inr h
      · rcases List.mem_cons.mp h with h | h
        · exact .inl h
        · exact .inr h
    · split at h
      · split at h
        · exact .inr (List.mem_cons_of_mem _ h)
        · rcases List.mem_cons.mp h with h | h
          · exact .inl h
          · exact .inr (List.mem_cons_of_mem _ h)
      · rcases List.mem_cons.mp h with h | h
        · exact .inr (h ▸ List.mem_cons_self ..)
        · rcases mem_writeCells h with h | h
          · exact .inl h
          · exact .inr (List.mem_cons_of_mem _ h)

theorem cellsWf_entryFor {lo : Option Nat} {a : Nat} {v : Word} {rest : List Slot}
    (hlo : ∀ b, lo = some b → b < a) (h : cellsWf (some a) rest = true) :
    cellsWf lo (entryFor a v rest) = true := by
  unfold entryFor
  split
  · refine cellsWf_weaken h fun b hb c hc => ?_
    exact (hlo b hb).trans (cellsWf_bound h c (List.mem_of_mem_head? hc))
  · rename_i hv
    cases lo with
    | none => simp [cellsWf, hv, h]
    | some b => simp [cellsWf, hv, h, hlo b rfl]

theorem cellsWf_writeCells {a : Nat} {v : Word} : ∀ {lo : Option Nat} {l : List Slot}, (∀ b, lo = some b → b < a) →
    cellsWf lo l = true → cellsWf lo (writeCells l a v) = true
  | lo, [], hlo, _ => cellsWf_entryFor hlo rfl
  | lo, (k, w) :: rest, hlo, h => by
    have h' := h
    simp only [cellsWf, Bool.and_eq_true] at h
    unfold writeCells
    split
    · rename_i hak
      refine cellsWf_entryFor hlo ?_
      simp only [cellsWf, Bool.and_eq_true, decide_eq_true_eq]
      exact ⟨⟨hak, h.1.2⟩, h.2⟩
    · split
      · rename_i _ hak
        subst a
        exact cellsWf_entryFor hlo h.2
      · rename_i h1 h2
        simp only [cellsWf, Bool.and_eq_true]
        exact ⟨h.1, cellsWf_writeCells (fun b hb => by cases hb; omega) h.2⟩

/-- A write stores the word, and every other slot reads as before. -/
theorem write_read {m : Memory} (h : m.wf = true) (a b : Nat) (v : Word) :
    (m.write a v).read b = if b = a then v else m.read b :=
  readCells_writeCells h

theorem write_read_same {m : Memory} (h : m.wf = true) (a : Nat) (v : Word) : (m.write a v).read a = v := by
  rw [write_read h, if_pos rfl]

theorem write_read_other {m : Memory} (h : m.wf = true) {a b : Nat} (hb : b ≠ a) (v : Word) :
    (m.write a v).read b = m.read b := by
  rw [write_read h, if_neg hb]

/-- A write keeps the canonical form. -/
theorem write_wf {m : Memory} (h : m.wf = true) (a : Nat) (v : Word) : (m.write a v).wf = true :=
  cellsWf_writeCells (by simp) h

/-- A write below the capacity keeps the contents below the capacity. -/
theorem write_within {m : Memory} {cap a : Nat} (h : m.within cap = true) (ha : a < cap) (v : Word) :
    (m.write a v).within cap = true := by
  simp only [Memory.within, List.all_eq_true, decide_eq_true_eq] at h ⊢
  intro c hc
  rcases mem_writeCells hc with rfl | hc
  · exact ha
  · exact h c hc

/-- A slot at or beyond the capacity reads +0.0. -/
theorem read_beyond {m : Memory} {cap a : Nat} (h : m.within cap = true) (ha : cap ≤ a) :
    m.read a = Memory.unlisted := by
  obtain ⟨l⟩ := m
  simp only [Memory.within, List.all_eq_true, decide_eq_true_eq] at h
  change readCells l a = _
  induction l with
  | nil => rfl
  | cons c rest ih =>
    obtain ⟨k, v⟩ := c
    have hk : k < cap := h (k, v) (List.mem_cons_self ..)
    rw [readCells, if_neg (by omega)]
    exact ih fun c hc => h c (List.mem_cons_of_mem _ hc)

end Sys2Proof.Machine
end

