-- ==== Sys2Proof/Laws/State.lean ====
section
/-! SUPPORT. What each state update does to each field: one lemma for each field of each update. -/

namespace Sys2Proof.Machine

/-! ## State.setFlags -/

@[simp] theorem setFlags_d (s : State) (m : Word) : (s.setFlags m).d = s.d := rfl
@[simp] theorem setFlags_written (s : State) (m : Word) : (s.setFlags m).written = s.written := rfl
@[simp] theorem setFlags_status (s : State) (m : Word) : (s.setFlags m).status = s.status ||| m := rfl
@[simp] theorem setFlags_fs (s : State) (m : Word) : (s.setFlags m).fs = s.fs := rfl
@[simp] theorem setFlags_bq (s : State) (m : Word) : (s.setFlags m).bq = s.bq := rfl
@[simp] theorem setFlags_lp (s : State) (m : Word) : (s.setFlags m).lp = s.lp := rfl
@[simp] theorem setFlags_hp (s : State) (m : Word) : (s.setFlags m).hp = s.hp := rfl
@[simp] theorem setFlags_sc (s : State) (m : Word) : (s.setFlags m).sc = s.sc := rfl
@[simp] theorem setFlags_dl (s : State) (m : Word) : (s.setFlags m).dl = s.dl := rfl
@[simp] theorem setFlags_dc (s : State) (m : Word) : (s.setFlags m).dc = s.dc := rfl
@[simp] theorem setFlags_li (s : State) (m : Word) : (s.setFlags m).li = s.li := rfl
@[simp] theorem setFlags_ds (s : State) (m : Word) : (s.setFlags m).ds = s.ds := rfl
@[simp] theorem setFlags_xo (s : State) (m : Word) : (s.setFlags m).xo = s.xo := rfl
@[simp] theorem setFlags_md (s : State) (m : Word) : (s.setFlags m).md = s.md := rfl
@[simp] theorem setFlags_nco (s : State) (m : Word) : (s.setFlags m).nco = s.nco := rfl
@[simp] theorem setFlags_zc (s : State) (m : Word) : (s.setFlags m).zc = s.zc := rfl
@[simp] theorem setFlags_env (s : State) (m : Word) : (s.setFlags m).env = s.env := rfl
@[simp] theorem setFlags_gp (s : State) (m : Word) : (s.setFlags m).gp = s.gp := rfl
@[simp] theorem setFlags_bus (s : State) (m : Word) : (s.setFlags m).bus = s.bus := rfl
@[simp] theorem setFlags_readData (s : State) (m : Word) : (s.setFlags m).readData = s.readData := rfl

/-! ## State.writeStatus -/

@[simp] theorem writeStatus_d (s : State) (v : Word) : (s.writeStatus v).d = s.d := rfl
@[simp] theorem writeStatus_written (s : State) (v : Word) : (s.writeStatus v).written = s.written := rfl
@[simp] theorem writeStatus_status (s : State) (v : Word) : (s.writeStatus v).status = s.status &&& ~~~(v &&& stickyMask) &&& (if v.getLsbD 0 then ~~~causeMask else BitVec.allOnes 32) := rfl
@[simp] theorem writeStatus_fs (s : State) (v : Word) : (s.writeStatus v).fs = s.fs := rfl
@[simp] theorem writeStatus_bq (s : State) (v : Word) : (s.writeStatus v).bq = s.bq := rfl
@[simp] theorem writeStatus_lp (s : State) (v : Word) : (s.writeStatus v).lp = s.lp := rfl
@[simp] theorem writeStatus_hp (s : State) (v : Word) : (s.writeStatus v).hp = s.hp := rfl
@[simp] theorem writeStatus_sc (s : State) (v : Word) : (s.writeStatus v).sc = s.sc := rfl
@[simp] theorem writeStatus_dl (s : State) (v : Word) : (s.writeStatus v).dl = s.dl := rfl
@[simp] theorem writeStatus_dc (s : State) (v : Word) : (s.writeStatus v).dc = s.dc := rfl
@[simp] theorem writeStatus_li (s : State) (v : Word) : (s.writeStatus v).li = s.li := rfl
@[simp] theorem writeStatus_ds (s : State) (v : Word) : (s.writeStatus v).ds = s.ds := rfl
@[simp] theorem writeStatus_xo (s : State) (v : Word) : (s.writeStatus v).xo = s.xo := rfl
@[simp] theorem writeStatus_md (s : State) (v : Word) : (s.writeStatus v).md = s.md := rfl
@[simp] theorem writeStatus_nco (s : State) (v : Word) : (s.writeStatus v).nco = s.nco := rfl
@[simp] theorem writeStatus_zc (s : State) (v : Word) : (s.writeStatus v).zc = s.zc := rfl
@[simp] theorem writeStatus_env (s : State) (v : Word) : (s.writeStatus v).env = s.env := rfl
@[simp] theorem writeStatus_gp (s : State) (v : Word) : (s.writeStatus v).gp = s.gp := rfl
@[simp] theorem writeStatus_bus (s : State) (v : Word) : (s.writeStatus v).bus = s.bus := rfl
@[simp] theorem writeStatus_readData (s : State) (v : Word) : (s.writeStatus v).readData = s.readData := rfl

/-! ## State.reject -/

@[simp] theorem reject_d (s : State) (c : Cause) : (s.reject c).d = s.d := rfl
@[simp] theorem reject_written (s : State) (c : Cause) : (s.reject c).written = s.written := rfl
@[simp] theorem reject_status (s : State) (c : Cause) : (s.reject c).status = (if s.ill then s.status else (s.status &&& ~~~causeMask) ||| ((causeCode c).zeroExtend 32 <<< 8)) ||| illMask := rfl
@[simp] theorem reject_fs (s : State) (c : Cause) : (s.reject c).fs = s.fs := rfl
@[simp] theorem reject_bq (s : State) (c : Cause) : (s.reject c).bq = s.bq := rfl
@[simp] theorem reject_lp (s : State) (c : Cause) : (s.reject c).lp = s.lp := rfl
@[simp] theorem reject_hp (s : State) (c : Cause) : (s.reject c).hp = s.hp := rfl
@[simp] theorem reject_sc (s : State) (c : Cause) : (s.reject c).sc = s.sc := rfl
@[simp] theorem reject_dl (s : State) (c : Cause) : (s.reject c).dl = s.dl := rfl
@[simp] theorem reject_dc (s : State) (c : Cause) : (s.reject c).dc = s.dc := rfl
@[simp] theorem reject_li (s : State) (c : Cause) : (s.reject c).li = s.li := rfl
@[simp] theorem reject_ds (s : State) (c : Cause) : (s.reject c).ds = s.ds := rfl
@[simp] theorem reject_xo (s : State) (c : Cause) : (s.reject c).xo = s.xo := rfl
@[simp] theorem reject_md (s : State) (c : Cause) : (s.reject c).md = s.md := rfl
@[simp] theorem reject_nco (s : State) (c : Cause) : (s.reject c).nco = s.nco := rfl
@[simp] theorem reject_zc (s : State) (c : Cause) : (s.reject c).zc = s.zc := rfl
@[simp] theorem reject_env (s : State) (c : Cause) : (s.reject c).env = s.env := rfl
@[simp] theorem reject_gp (s : State) (c : Cause) : (s.reject c).gp = s.gp := rfl
@[simp] theorem reject_bus (s : State) (c : Cause) : (s.reject c).bus = s.bus := rfl
@[simp] theorem reject_readData (s : State) (c : Cause) : (s.reject c).readData = s.readData := rfl

/-! ## State.writeReg -/

@[simp] theorem writeReg_d (s : State) (r : Reg) (v : Word) : (s.writeReg r v).d = s.d.set r.toNat v r.isLt := rfl
@[simp] theorem writeReg_written (s : State) (r : Reg) (v : Word) : (s.writeReg r v).written = s.written.set r.toNat true r.isLt := rfl
@[simp] theorem writeReg_status (s : State) (r : Reg) (v : Word) : (s.writeReg r v).status = s.status := rfl
@[simp] theorem writeReg_fs (s : State) (r : Reg) (v : Word) : (s.writeReg r v).fs = s.fs := rfl
@[simp] theorem writeReg_bq (s : State) (r : Reg) (v : Word) : (s.writeReg r v).bq = s.bq := rfl
@[simp] theorem writeReg_lp (s : State) (r : Reg) (v : Word) : (s.writeReg r v).lp = s.lp := rfl
@[simp] theorem writeReg_hp (s : State) (r : Reg) (v : Word) : (s.writeReg r v).hp = s.hp := rfl
@[simp] theorem writeReg_sc (s : State) (r : Reg) (v : Word) : (s.writeReg r v).sc = s.sc := rfl
@[simp] theorem writeReg_dl (s : State) (r : Reg) (v : Word) : (s.writeReg r v).dl = s.dl := rfl
@[simp] theorem writeReg_dc (s : State) (r : Reg) (v : Word) : (s.writeReg r v).dc = s.dc := rfl
@[simp] theorem writeReg_li (s : State) (r : Reg) (v : Word) : (s.writeReg r v).li = s.li := rfl
@[simp] theorem writeReg_ds (s : State) (r : Reg) (v : Word) : (s.writeReg r v).ds = s.ds := rfl
@[simp] theorem writeReg_xo (s : State) (r : Reg) (v : Word) : (s.writeReg r v).xo = s.xo := rfl
@[simp] theorem writeReg_md (s : State) (r : Reg) (v : Word) : (s.writeReg r v).md = s.md := rfl
@[simp] theorem writeReg_nco (s : State) (r : Reg) (v : Word) : (s.writeReg r v).nco = s.nco := rfl
@[simp] theorem writeReg_zc (s : State) (r : Reg) (v : Word) : (s.writeReg r v).zc = s.zc := rfl
@[simp] theorem writeReg_env (s : State) (r : Reg) (v : Word) : (s.writeReg r v).env = s.env := rfl
@[simp] theorem writeReg_gp (s : State) (r : Reg) (v : Word) : (s.writeReg r v).gp = s.gp := rfl
@[simp] theorem writeReg_bus (s : State) (r : Reg) (v : Word) : (s.writeReg r v).bus = s.bus := rfl
@[simp] theorem writeReg_readData (s : State) (r : Reg) (v : Word) : (s.writeReg r v).readData = s.readData := rfl

/-! ## State.setBq -/

@[simp] theorem setBq_d (s : State) (i : InstNo) (u : Bq) : (s.setBq i u).d = s.d := rfl
@[simp] theorem setBq_written (s : State) (i : InstNo) (u : Bq) : (s.setBq i u).written = s.written := rfl
@[simp] theorem setBq_status (s : State) (i : InstNo) (u : Bq) : (s.setBq i u).status = s.status := rfl
@[simp] theorem setBq_fs (s : State) (i : InstNo) (u : Bq) : (s.setBq i u).fs = s.fs := rfl
@[simp] theorem setBq_bq (s : State) (i : InstNo) (u : Bq) : (s.setBq i u).bq = s.bq.set i.toNat u := rfl
@[simp] theorem setBq_lp (s : State) (i : InstNo) (u : Bq) : (s.setBq i u).lp = s.lp := rfl
@[simp] theorem setBq_hp (s : State) (i : InstNo) (u : Bq) : (s.setBq i u).hp = s.hp := rfl
@[simp] theorem setBq_sc (s : State) (i : InstNo) (u : Bq) : (s.setBq i u).sc = s.sc := rfl
@[simp] theorem setBq_dl (s : State) (i : InstNo) (u : Bq) : (s.setBq i u).dl = s.dl := rfl
@[simp] theorem setBq_dc (s : State) (i : InstNo) (u : Bq) : (s.setBq i u).dc = s.dc := rfl
@[simp] theorem setBq_li (s : State) (i : InstNo) (u : Bq) : (s.setBq i u).li = s.li := rfl
@[simp] theorem setBq_ds (s : State) (i : InstNo) (u : Bq) : (s.setBq i u).ds = s.ds := rfl
@[simp] theorem setBq_xo (s : State) (i : InstNo) (u : Bq) : (s.setBq i u).xo = s.xo := rfl
@[simp] theorem setBq_md (s : State) (i : InstNo) (u : Bq) : (s.setBq i u).md = s.md := rfl
@[simp] theorem setBq_nco (s : State) (i : InstNo) (u : Bq) : (s.setBq i u).nco = s.nco := rfl
@[simp] theorem setBq_zc (s : State) (i : InstNo) (u : Bq) : (s.setBq i u).zc = s.zc := rfl
@[simp] theorem setBq_env (s : State) (i : InstNo) (u : Bq) : (s.setBq i u).env = s.env := rfl
@[simp] theorem setBq_gp (s : State) (i : InstNo) (u : Bq) : (s.setBq i u).gp = s.gp := rfl
@[simp] theorem setBq_bus (s : State) (i : InstNo) (u : Bq) : (s.setBq i u).bus = s.bus := rfl
@[simp] theorem setBq_readData (s : State) (i : InstNo) (u : Bq) : (s.setBq i u).readData = s.readData := rfl

/-! ## State.setLp -/

@[simp] theorem setLp_d (s : State) (i : InstNo) (u : Lp) : (s.setLp i u).d = s.d := rfl
@[simp] theorem setLp_written (s : State) (i : InstNo) (u : Lp) : (s.setLp i u).written = s.written := rfl
@[simp] theorem setLp_status (s : State) (i : InstNo) (u : Lp) : (s.setLp i u).status = s.status := rfl
@[simp] theorem setLp_fs (s : State) (i : InstNo) (u : Lp) : (s.setLp i u).fs = s.fs := rfl
@[simp] theorem setLp_bq (s : State) (i : InstNo) (u : Lp) : (s.setLp i u).bq = s.bq := rfl
@[simp] theorem setLp_lp (s : State) (i : InstNo) (u : Lp) : (s.setLp i u).lp = s.lp.set i.toNat u := rfl
@[simp] theorem setLp_hp (s : State) (i : InstNo) (u : Lp) : (s.setLp i u).hp = s.hp := rfl
@[simp] theorem setLp_sc (s : State) (i : InstNo) (u : Lp) : (s.setLp i u).sc = s.sc := rfl
@[simp] theorem setLp_dl (s : State) (i : InstNo) (u : Lp) : (s.setLp i u).dl = s.dl := rfl
@[simp] theorem setLp_dc (s : State) (i : InstNo) (u : Lp) : (s.setLp i u).dc = s.dc := rfl
@[simp] theorem setLp_li (s : State) (i : InstNo) (u : Lp) : (s.setLp i u).li = s.li := rfl
@[simp] theorem setLp_ds (s : State) (i : InstNo) (u : Lp) : (s.setLp i u).ds = s.ds := rfl
@[simp] theorem setLp_xo (s : State) (i : InstNo) (u : Lp) : (s.setLp i u).xo = s.xo := rfl
@[simp] theorem setLp_md (s : State) (i : InstNo) (u : Lp) : (s.setLp i u).md = s.md := rfl
@[simp] theorem setLp_nco (s : State) (i : InstNo) (u : Lp) : (s.setLp i u).nco = s.nco := rfl
@[simp] theorem setLp_zc (s : State) (i : InstNo) (u : Lp) : (s.setLp i u).zc = s.zc := rfl
@[simp] theorem setLp_env (s : State) (i : InstNo) (u : Lp) : (s.setLp i u).env = s.env := rfl
@[simp] theorem setLp_gp (s : State) (i : InstNo) (u : Lp) : (s.setLp i u).gp = s.gp := rfl
@[simp] theorem setLp_bus (s : State) (i : InstNo) (u : Lp) : (s.setLp i u).bus = s.bus := rfl
@[simp] theorem setLp_readData (s : State) (i : InstNo) (u : Lp) : (s.setLp i u).readData = s.readData := rfl

/-! ## State.setHp -/

@[simp] theorem setHp_d (s : State) (i : InstNo) (u : Hp) : (s.setHp i u).d = s.d := rfl
@[simp] theorem setHp_written (s : State) (i : InstNo) (u : Hp) : (s.setHp i u).written = s.written := rfl
@[simp] theorem setHp_status (s : State) (i : InstNo) (u : Hp) : (s.setHp i u).status = s.status := rfl
@[simp] theorem setHp_fs (s : State) (i : InstNo) (u : Hp) : (s.setHp i u).fs = s.fs := rfl
@[simp] theorem setHp_bq (s : State) (i : InstNo) (u : Hp) : (s.setHp i u).bq = s.bq := rfl
@[simp] theorem setHp_lp (s : State) (i : InstNo) (u : Hp) : (s.setHp i u).lp = s.lp := rfl
@[simp] theorem setHp_hp (s : State) (i : InstNo) (u : Hp) : (s.setHp i u).hp = s.hp.set i.toNat u := rfl
@[simp] theorem setHp_sc (s : State) (i : InstNo) (u : Hp) : (s.setHp i u).sc = s.sc := rfl
@[simp] theorem setHp_dl (s : State) (i : InstNo) (u : Hp) : (s.setHp i u).dl = s.dl := rfl
@[simp] theorem setHp_dc (s : State) (i : InstNo) (u : Hp) : (s.setHp i u).dc = s.dc := rfl
@[simp] theorem setHp_li (s : State) (i : InstNo) (u : Hp) : (s.setHp i u).li = s.li := rfl
@[simp] theorem setHp_ds (s : State) (i : InstNo) (u : Hp) : (s.setHp i u).ds = s.ds := rfl
@[simp] theorem setHp_xo (s : State) (i : InstNo) (u : Hp) : (s.setHp i u).xo = s.xo := rfl
@[simp] theorem setHp_md (s : State) (i : InstNo) (u : Hp) : (s.setHp i u).md = s.md := rfl
@[simp] theorem setHp_nco (s : State) (i : InstNo) (u : Hp) : (s.setHp i u).nco = s.nco := rfl
@[simp] theorem setHp_zc (s : State) (i : InstNo) (u : Hp) : (s.setHp i u).zc = s.zc := rfl
@[simp] theorem setHp_env (s : State) (i : InstNo) (u : Hp) : (s.setHp i u).env = s.env := rfl
@[simp] theorem setHp_gp (s : State) (i : InstNo) (u : Hp) : (s.setHp i u).gp = s.gp := rfl
@[simp] theorem setHp_bus (s : State) (i : InstNo) (u : Hp) : (s.setHp i u).bus = s.bus := rfl
@[simp] theorem setHp_readData (s : State) (i : InstNo) (u : Hp) : (s.setHp i u).readData = s.readData := rfl

/-! ## State.setSc -/

@[simp] theorem setSc_d (s : State) (i : InstNo) (u : Sc) : (s.setSc i u).d = s.d := rfl
@[simp] theorem setSc_written (s : State) (i : InstNo) (u : Sc) : (s.setSc i u).written = s.written := rfl
@[simp] theorem setSc_status (s : State) (i : InstNo) (u : Sc) : (s.setSc i u).status = s.status := rfl
@[simp] theorem setSc_fs (s : State) (i : InstNo) (u : Sc) : (s.setSc i u).fs = s.fs := rfl
@[simp] theorem setSc_bq (s : State) (i : InstNo) (u : Sc) : (s.setSc i u).bq = s.bq := rfl
@[simp] theorem setSc_lp (s : State) (i : InstNo) (u : Sc) : (s.setSc i u).lp = s.lp := rfl
@[simp] theorem setSc_hp (s : State) (i : InstNo) (u : Sc) : (s.setSc i u).hp = s.hp := rfl
@[simp] theorem setSc_sc (s : State) (i : InstNo) (u : Sc) : (s.setSc i u).sc = s.sc.set i.toNat u := rfl
@[simp] theorem setSc_dl (s : State) (i : InstNo) (u : Sc) : (s.setSc i u).dl = s.dl := rfl
@[simp] theorem setSc_dc (s : State) (i : InstNo) (u : Sc) : (s.setSc i u).dc = s.dc := rfl
@[simp] theorem setSc_li (s : State) (i : InstNo) (u : Sc) : (s.setSc i u).li = s.li := rfl
@[simp] theorem setSc_ds (s : State) (i : InstNo) (u : Sc) : (s.setSc i u).ds = s.ds := rfl
@[simp] theorem setSc_xo (s : State) (i : InstNo) (u : Sc) : (s.setSc i u).xo = s.xo := rfl
@[simp] theorem setSc_md (s : State) (i : InstNo) (u : Sc) : (s.setSc i u).md = s.md := rfl
@[simp] theorem setSc_nco (s : State) (i : InstNo) (u : Sc) : (s.setSc i u).nco = s.nco := rfl
@[simp] theorem setSc_zc (s : State) (i : InstNo) (u : Sc) : (s.setSc i u).zc = s.zc := rfl
@[simp] theorem setSc_env (s : State) (i : InstNo) (u : Sc) : (s.setSc i u).env = s.env := rfl
@[simp] theorem setSc_gp (s : State) (i : InstNo) (u : Sc) : (s.setSc i u).gp = s.gp := rfl
@[simp] theorem setSc_bus (s : State) (i : InstNo) (u : Sc) : (s.setSc i u).bus = s.bus := rfl
@[simp] theorem setSc_readData (s : State) (i : InstNo) (u : Sc) : (s.setSc i u).readData = s.readData := rfl

/-! ## State.setDl -/

@[simp] theorem setDl_d (s : State) (i : InstNo) (u : Dl) : (s.setDl i u).d = s.d := rfl
@[simp] theorem setDl_written (s : State) (i : InstNo) (u : Dl) : (s.setDl i u).written = s.written := rfl
@[simp] theorem setDl_status (s : State) (i : InstNo) (u : Dl) : (s.setDl i u).status = s.status := rfl
@[simp] theorem setDl_fs (s : State) (i : InstNo) (u : Dl) : (s.setDl i u).fs = s.fs := rfl
@[simp] theorem setDl_bq (s : State) (i : InstNo) (u : Dl) : (s.setDl i u).bq = s.bq := rfl
@[simp] theorem setDl_lp (s : State) (i : InstNo) (u : Dl) : (s.setDl i u).lp = s.lp := rfl
@[simp] theorem setDl_hp (s : State) (i : InstNo) (u : Dl) : (s.setDl i u).hp = s.hp := rfl
@[simp] theorem setDl_sc (s : State) (i : InstNo) (u : Dl) : (s.setDl i u).sc = s.sc := rfl
@[simp] theorem setDl_dl (s : State) (i : InstNo) (u : Dl) : (s.setDl i u).dl = s.dl.set i.toNat u := rfl
@[simp] theorem setDl_dc (s : State) (i : InstNo) (u : Dl) : (s.setDl i u).dc = s.dc := rfl
@[simp] theorem setDl_li (s : State) (i : InstNo) (u : Dl) : (s.setDl i u).li = s.li := rfl
@[simp] theorem setDl_ds (s : State) (i : InstNo) (u : Dl) : (s.setDl i u).ds = s.ds := rfl
@[simp] theorem setDl_xo (s : State) (i : InstNo) (u : Dl) : (s.setDl i u).xo = s.xo := rfl
@[simp] theorem setDl_md (s : State) (i : InstNo) (u : Dl) : (s.setDl i u).md = s.md := rfl
@[simp] theorem setDl_nco (s : State) (i : InstNo) (u : Dl) : (s.setDl i u).nco = s.nco := rfl
@[simp] theorem setDl_zc (s : State) (i : InstNo) (u : Dl) : (s.setDl i u).zc = s.zc := rfl
@[simp] theorem setDl_env (s : State) (i : InstNo) (u : Dl) : (s.setDl i u).env = s.env := rfl
@[simp] theorem setDl_gp (s : State) (i : InstNo) (u : Dl) : (s.setDl i u).gp = s.gp := rfl
@[simp] theorem setDl_bus (s : State) (i : InstNo) (u : Dl) : (s.setDl i u).bus = s.bus := rfl
@[simp] theorem setDl_readData (s : State) (i : InstNo) (u : Dl) : (s.setDl i u).readData = s.readData := rfl

/-! ## State.setDc -/

@[simp] theorem setDc_d (s : State) (i : InstNo) (u : Dc) : (s.setDc i u).d = s.d := rfl
@[simp] theorem setDc_written (s : State) (i : InstNo) (u : Dc) : (s.setDc i u).written = s.written := rfl
@[simp] theorem setDc_status (s : State) (i : InstNo) (u : Dc) : (s.setDc i u).status = s.status := rfl
@[simp] theorem setDc_fs (s : State) (i : InstNo) (u : Dc) : (s.setDc i u).fs = s.fs := rfl
@[simp] theorem setDc_bq (s : State) (i : InstNo) (u : Dc) : (s.setDc i u).bq = s.bq := rfl
@[simp] theorem setDc_lp (s : State) (i : InstNo) (u : Dc) : (s.setDc i u).lp = s.lp := rfl
@[simp] theorem setDc_hp (s : State) (i : InstNo) (u : Dc) : (s.setDc i u).hp = s.hp := rfl
@[simp] theorem setDc_sc (s : State) (i : InstNo) (u : Dc) : (s.setDc i u).sc = s.sc := rfl
@[simp] theorem setDc_dl (s : State) (i : InstNo) (u : Dc) : (s.setDc i u).dl = s.dl := rfl
@[simp] theorem setDc_dc (s : State) (i : InstNo) (u : Dc) : (s.setDc i u).dc = s.dc.set i.toNat u := rfl
@[simp] theorem setDc_li (s : State) (i : InstNo) (u : Dc) : (s.setDc i u).li = s.li := rfl
@[simp] theorem setDc_ds (s : State) (i : InstNo) (u : Dc) : (s.setDc i u).ds = s.ds := rfl
@[simp] theorem setDc_xo (s : State) (i : InstNo) (u : Dc) : (s.setDc i u).xo = s.xo := rfl
@[simp] theorem setDc_md (s : State) (i : InstNo) (u : Dc) : (s.setDc i u).md = s.md := rfl
@[simp] theorem setDc_nco (s : State) (i : InstNo) (u : Dc) : (s.setDc i u).nco = s.nco := rfl
@[simp] theorem setDc_zc (s : State) (i : InstNo) (u : Dc) : (s.setDc i u).zc = s.zc := rfl
@[simp] theorem setDc_env (s : State) (i : InstNo) (u : Dc) : (s.setDc i u).env = s.env := rfl
@[simp] theorem setDc_gp (s : State) (i : InstNo) (u : Dc) : (s.setDc i u).gp = s.gp := rfl
@[simp] theorem setDc_bus (s : State) (i : InstNo) (u : Dc) : (s.setDc i u).bus = s.bus := rfl
@[simp] theorem setDc_readData (s : State) (i : InstNo) (u : Dc) : (s.setDc i u).readData = s.readData := rfl

/-! ## State.setLi -/

@[simp] theorem setLi_d (s : State) (i : InstNo) (u : Li) : (s.setLi i u).d = s.d := rfl
@[simp] theorem setLi_written (s : State) (i : InstNo) (u : Li) : (s.setLi i u).written = s.written := rfl
@[simp] theorem setLi_status (s : State) (i : InstNo) (u : Li) : (s.setLi i u).status = s.status := rfl
@[simp] theorem setLi_fs (s : State) (i : InstNo) (u : Li) : (s.setLi i u).fs = s.fs := rfl
@[simp] theorem setLi_bq (s : State) (i : InstNo) (u : Li) : (s.setLi i u).bq = s.bq := rfl
@[simp] theorem setLi_lp (s : State) (i : InstNo) (u : Li) : (s.setLi i u).lp = s.lp := rfl
@[simp] theorem setLi_hp (s : State) (i : InstNo) (u : Li) : (s.setLi i u).hp = s.hp := rfl
@[simp] theorem setLi_sc (s : State) (i : InstNo) (u : Li) : (s.setLi i u).sc = s.sc := rfl
@[simp] theorem setLi_dl (s : State) (i : InstNo) (u : Li) : (s.setLi i u).dl = s.dl := rfl
@[simp] theorem setLi_dc (s : State) (i : InstNo) (u : Li) : (s.setLi i u).dc = s.dc := rfl
@[simp] theorem setLi_li (s : State) (i : InstNo) (u : Li) : (s.setLi i u).li = s.li.set i.toNat u := rfl
@[simp] theorem setLi_ds (s : State) (i : InstNo) (u : Li) : (s.setLi i u).ds = s.ds := rfl
@[simp] theorem setLi_xo (s : State) (i : InstNo) (u : Li) : (s.setLi i u).xo = s.xo := rfl
@[simp] theorem setLi_md (s : State) (i : InstNo) (u : Li) : (s.setLi i u).md = s.md := rfl
@[simp] theorem setLi_nco (s : State) (i : InstNo) (u : Li) : (s.setLi i u).nco = s.nco := rfl
@[simp] theorem setLi_zc (s : State) (i : InstNo) (u : Li) : (s.setLi i u).zc = s.zc := rfl
@[simp] theorem setLi_env (s : State) (i : InstNo) (u : Li) : (s.setLi i u).env = s.env := rfl
@[simp] theorem setLi_gp (s : State) (i : InstNo) (u : Li) : (s.setLi i u).gp = s.gp := rfl
@[simp] theorem setLi_bus (s : State) (i : InstNo) (u : Li) : (s.setLi i u).bus = s.bus := rfl
@[simp] theorem setLi_readData (s : State) (i : InstNo) (u : Li) : (s.setLi i u).readData = s.readData := rfl

/-! ## State.setDs -/

@[simp] theorem setDs_d (s : State) (i : InstNo) (u : Ds) : (s.setDs i u).d = s.d := rfl
@[simp] theorem setDs_written (s : State) (i : InstNo) (u : Ds) : (s.setDs i u).written = s.written := rfl
@[simp] theorem setDs_status (s : State) (i : InstNo) (u : Ds) : (s.setDs i u).status = s.status := rfl
@[simp] theorem setDs_fs (s : State) (i : InstNo) (u : Ds) : (s.setDs i u).fs = s.fs := rfl
@[simp] theorem setDs_bq (s : State) (i : InstNo) (u : Ds) : (s.setDs i u).bq = s.bq := rfl
@[simp] theorem setDs_lp (s : State) (i : InstNo) (u : Ds) : (s.setDs i u).lp = s.lp := rfl
@[simp] theorem setDs_hp (s : State) (i : InstNo) (u : Ds) : (s.setDs i u).hp = s.hp := rfl
@[simp] theorem setDs_sc (s : State) (i : InstNo) (u : Ds) : (s.setDs i u).sc = s.sc := rfl
@[simp] theorem setDs_dl (s : State) (i : InstNo) (u : Ds) : (s.setDs i u).dl = s.dl := rfl
@[simp] theorem setDs_dc (s : State) (i : InstNo) (u : Ds) : (s.setDs i u).dc = s.dc := rfl
@[simp] theorem setDs_li (s : State) (i : InstNo) (u : Ds) : (s.setDs i u).li = s.li := rfl
@[simp] theorem setDs_ds (s : State) (i : InstNo) (u : Ds) : (s.setDs i u).ds = s.ds.set i.toNat u := rfl
@[simp] theorem setDs_xo (s : State) (i : InstNo) (u : Ds) : (s.setDs i u).xo = s.xo := rfl
@[simp] theorem setDs_md (s : State) (i : InstNo) (u : Ds) : (s.setDs i u).md = s.md := rfl
@[simp] theorem setDs_nco (s : State) (i : InstNo) (u : Ds) : (s.setDs i u).nco = s.nco := rfl
@[simp] theorem setDs_zc (s : State) (i : InstNo) (u : Ds) : (s.setDs i u).zc = s.zc := rfl
@[simp] theorem setDs_env (s : State) (i : InstNo) (u : Ds) : (s.setDs i u).env = s.env := rfl
@[simp] theorem setDs_gp (s : State) (i : InstNo) (u : Ds) : (s.setDs i u).gp = s.gp := rfl
@[simp] theorem setDs_bus (s : State) (i : InstNo) (u : Ds) : (s.setDs i u).bus = s.bus := rfl
@[simp] theorem setDs_readData (s : State) (i : InstNo) (u : Ds) : (s.setDs i u).readData = s.readData := rfl

/-! ## State.setXo -/

@[simp] theorem setXo_d (s : State) (i : InstNo) (u : Xo) : (s.setXo i u).d = s.d := rfl
@[simp] theorem setXo_written (s : State) (i : InstNo) (u : Xo) : (s.setXo i u).written = s.written := rfl
@[simp] theorem setXo_status (s : State) (i : InstNo) (u : Xo) : (s.setXo i u).status = s.status := rfl
@[simp] theorem setXo_fs (s : State) (i : InstNo) (u : Xo) : (s.setXo i u).fs = s.fs := rfl
@[simp] theorem setXo_bq (s : State) (i : InstNo) (u : Xo) : (s.setXo i u).bq = s.bq := rfl
@[simp] theorem setXo_lp (s : State) (i : InstNo) (u : Xo) : (s.setXo i u).lp = s.lp := rfl
@[simp] theorem setXo_hp (s : State) (i : InstNo) (u : Xo) : (s.setXo i u).hp = s.hp := rfl
@[simp] theorem setXo_sc (s : State) (i : InstNo) (u : Xo) : (s.setXo i u).sc = s.sc := rfl
@[simp] theorem setXo_dl (s : State) (i : InstNo) (u : Xo) : (s.setXo i u).dl = s.dl := rfl
@[simp] theorem setXo_dc (s : State) (i : InstNo) (u : Xo) : (s.setXo i u).dc = s.dc := rfl
@[simp] theorem setXo_li (s : State) (i : InstNo) (u : Xo) : (s.setXo i u).li = s.li := rfl
@[simp] theorem setXo_ds (s : State) (i : InstNo) (u : Xo) : (s.setXo i u).ds = s.ds := rfl
@[simp] theorem setXo_xo (s : State) (i : InstNo) (u : Xo) : (s.setXo i u).xo = s.xo.set i.toNat u := rfl
@[simp] theorem setXo_md (s : State) (i : InstNo) (u : Xo) : (s.setXo i u).md = s.md := rfl
@[simp] theorem setXo_nco (s : State) (i : InstNo) (u : Xo) : (s.setXo i u).nco = s.nco := rfl
@[simp] theorem setXo_zc (s : State) (i : InstNo) (u : Xo) : (s.setXo i u).zc = s.zc := rfl
@[simp] theorem setXo_env (s : State) (i : InstNo) (u : Xo) : (s.setXo i u).env = s.env := rfl
@[simp] theorem setXo_gp (s : State) (i : InstNo) (u : Xo) : (s.setXo i u).gp = s.gp := rfl
@[simp] theorem setXo_bus (s : State) (i : InstNo) (u : Xo) : (s.setXo i u).bus = s.bus := rfl
@[simp] theorem setXo_readData (s : State) (i : InstNo) (u : Xo) : (s.setXo i u).readData = s.readData := rfl

/-! ## State.setMd -/

@[simp] theorem setMd_d (s : State) (i : InstNo) (u : Md) : (s.setMd i u).d = s.d := rfl
@[simp] theorem setMd_written (s : State) (i : InstNo) (u : Md) : (s.setMd i u).written = s.written := rfl
@[simp] theorem setMd_status (s : State) (i : InstNo) (u : Md) : (s.setMd i u).status = s.status := rfl
@[simp] theorem setMd_fs (s : State) (i : InstNo) (u : Md) : (s.setMd i u).fs = s.fs := rfl
@[simp] theorem setMd_bq (s : State) (i : InstNo) (u : Md) : (s.setMd i u).bq = s.bq := rfl
@[simp] theorem setMd_lp (s : State) (i : InstNo) (u : Md) : (s.setMd i u).lp = s.lp := rfl
@[simp] theorem setMd_hp (s : State) (i : InstNo) (u : Md) : (s.setMd i u).hp = s.hp := rfl
@[simp] theorem setMd_sc (s : State) (i : InstNo) (u : Md) : (s.setMd i u).sc = s.sc := rfl
@[simp] theorem setMd_dl (s : State) (i : InstNo) (u : Md) : (s.setMd i u).dl = s.dl := rfl
@[simp] theorem setMd_dc (s : State) (i : InstNo) (u : Md) : (s.setMd i u).dc = s.dc := rfl
@[simp] theorem setMd_li (s : State) (i : InstNo) (u : Md) : (s.setMd i u).li = s.li := rfl
@[simp] theorem setMd_ds (s : State) (i : InstNo) (u : Md) : (s.setMd i u).ds = s.ds := rfl
@[simp] theorem setMd_xo (s : State) (i : InstNo) (u : Md) : (s.setMd i u).xo = s.xo := rfl
@[simp] theorem setMd_md (s : State) (i : InstNo) (u : Md) : (s.setMd i u).md = s.md.set i.toNat u := rfl
@[simp] theorem setMd_nco (s : State) (i : InstNo) (u : Md) : (s.setMd i u).nco = s.nco := rfl
@[simp] theorem setMd_zc (s : State) (i : InstNo) (u : Md) : (s.setMd i u).zc = s.zc := rfl
@[simp] theorem setMd_env (s : State) (i : InstNo) (u : Md) : (s.setMd i u).env = s.env := rfl
@[simp] theorem setMd_gp (s : State) (i : InstNo) (u : Md) : (s.setMd i u).gp = s.gp := rfl
@[simp] theorem setMd_bus (s : State) (i : InstNo) (u : Md) : (s.setMd i u).bus = s.bus := rfl
@[simp] theorem setMd_readData (s : State) (i : InstNo) (u : Md) : (s.setMd i u).readData = s.readData := rfl

/-! ## State.setNco -/

@[simp] theorem setNco_d (s : State) (i : InstNo) (u : Nco) : (s.setNco i u).d = s.d := rfl
@[simp] theorem setNco_written (s : State) (i : InstNo) (u : Nco) : (s.setNco i u).written = s.written := rfl
@[simp] theorem setNco_status (s : State) (i : InstNo) (u : Nco) : (s.setNco i u).status = s.status := rfl
@[simp] theorem setNco_fs (s : State) (i : InstNo) (u : Nco) : (s.setNco i u).fs = s.fs := rfl
@[simp] theorem setNco_bq (s : State) (i : InstNo) (u : Nco) : (s.setNco i u).bq = s.bq := rfl
@[simp] theorem setNco_lp (s : State) (i : InstNo) (u : Nco) : (s.setNco i u).lp = s.lp := rfl
@[simp] theorem setNco_hp (s : State) (i : InstNo) (u : Nco) : (s.setNco i u).hp = s.hp := rfl
@[simp] theorem setNco_sc (s : State) (i : InstNo) (u : Nco) : (s.setNco i u).sc = s.sc := rfl
@[simp] theorem setNco_dl (s : State) (i : InstNo) (u : Nco) : (s.setNco i u).dl = s.dl := rfl
@[simp] theorem setNco_dc (s : State) (i : InstNo) (u : Nco) : (s.setNco i u).dc = s.dc := rfl
@[simp] theorem setNco_li (s : State) (i : InstNo) (u : Nco) : (s.setNco i u).li = s.li := rfl
@[simp] theorem setNco_ds (s : State) (i : InstNo) (u : Nco) : (s.setNco i u).ds = s.ds := rfl
@[simp] theorem setNco_xo (s : State) (i : InstNo) (u : Nco) : (s.setNco i u).xo = s.xo := rfl
@[simp] theorem setNco_md (s : State) (i : InstNo) (u : Nco) : (s.setNco i u).md = s.md := rfl
@[simp] theorem setNco_nco (s : State) (i : InstNo) (u : Nco) : (s.setNco i u).nco = s.nco.set i.toNat u := rfl
@[simp] theorem setNco_zc (s : State) (i : InstNo) (u : Nco) : (s.setNco i u).zc = s.zc := rfl
@[simp] theorem setNco_env (s : State) (i : InstNo) (u : Nco) : (s.setNco i u).env = s.env := rfl
@[simp] theorem setNco_gp (s : State) (i : InstNo) (u : Nco) : (s.setNco i u).gp = s.gp := rfl
@[simp] theorem setNco_bus (s : State) (i : InstNo) (u : Nco) : (s.setNco i u).bus = s.bus := rfl
@[simp] theorem setNco_readData (s : State) (i : InstNo) (u : Nco) : (s.setNco i u).readData = s.readData := rfl

/-! ## State.setZc -/

@[simp] theorem setZc_d (s : State) (i : InstNo) (u : Zc) : (s.setZc i u).d = s.d := rfl
@[simp] theorem setZc_written (s : State) (i : InstNo) (u : Zc) : (s.setZc i u).written = s.written := rfl
@[simp] theorem setZc_status (s : State) (i : InstNo) (u : Zc) : (s.setZc i u).status = s.status := rfl
@[simp] theorem setZc_fs (s : State) (i : InstNo) (u : Zc) : (s.setZc i u).fs = s.fs := rfl
@[simp] theorem setZc_bq (s : State) (i : InstNo) (u : Zc) : (s.setZc i u).bq = s.bq := rfl
@[simp] theorem setZc_lp (s : State) (i : InstNo) (u : Zc) : (s.setZc i u).lp = s.lp := rfl
@[simp] theorem setZc_hp (s : State) (i : InstNo) (u : Zc) : (s.setZc i u).hp = s.hp := rfl
@[simp] theorem setZc_sc (s : State) (i : InstNo) (u : Zc) : (s.setZc i u).sc = s.sc := rfl
@[simp] theorem setZc_dl (s : State) (i : InstNo) (u : Zc) : (s.setZc i u).dl = s.dl := rfl
@[simp] theorem setZc_dc (s : State) (i : InstNo) (u : Zc) : (s.setZc i u).dc = s.dc := rfl
@[simp] theorem setZc_li (s : State) (i : InstNo) (u : Zc) : (s.setZc i u).li = s.li := rfl
@[simp] theorem setZc_ds (s : State) (i : InstNo) (u : Zc) : (s.setZc i u).ds = s.ds := rfl
@[simp] theorem setZc_xo (s : State) (i : InstNo) (u : Zc) : (s.setZc i u).xo = s.xo := rfl
@[simp] theorem setZc_md (s : State) (i : InstNo) (u : Zc) : (s.setZc i u).md = s.md := rfl
@[simp] theorem setZc_nco (s : State) (i : InstNo) (u : Zc) : (s.setZc i u).nco = s.nco := rfl
@[simp] theorem setZc_zc (s : State) (i : InstNo) (u : Zc) : (s.setZc i u).zc = s.zc.set i.toNat u := rfl
@[simp] theorem setZc_env (s : State) (i : InstNo) (u : Zc) : (s.setZc i u).env = s.env := rfl
@[simp] theorem setZc_gp (s : State) (i : InstNo) (u : Zc) : (s.setZc i u).gp = s.gp := rfl
@[simp] theorem setZc_bus (s : State) (i : InstNo) (u : Zc) : (s.setZc i u).bus = s.bus := rfl
@[simp] theorem setZc_readData (s : State) (i : InstNo) (u : Zc) : (s.setZc i u).readData = s.readData := rfl

/-! ## State.setEnv -/

@[simp] theorem setEnv_d (s : State) (i : InstNo) (u : Env) : (s.setEnv i u).d = s.d := rfl
@[simp] theorem setEnv_written (s : State) (i : InstNo) (u : Env) : (s.setEnv i u).written = s.written := rfl
@[simp] theorem setEnv_status (s : State) (i : InstNo) (u : Env) : (s.setEnv i u).status = s.status := rfl
@[simp] theorem setEnv_fs (s : State) (i : InstNo) (u : Env) : (s.setEnv i u).fs = s.fs := rfl
@[simp] theorem setEnv_bq (s : State) (i : InstNo) (u : Env) : (s.setEnv i u).bq = s.bq := rfl
@[simp] theorem setEnv_lp (s : State) (i : InstNo) (u : Env) : (s.setEnv i u).lp = s.lp := rfl
@[simp] theorem setEnv_hp (s : State) (i : InstNo) (u : Env) : (s.setEnv i u).hp = s.hp := rfl
@[simp] theorem setEnv_sc (s : State) (i : InstNo) (u : Env) : (s.setEnv i u).sc = s.sc := rfl
@[simp] theorem setEnv_dl (s : State) (i : InstNo) (u : Env) : (s.setEnv i u).dl = s.dl := rfl
@[simp] theorem setEnv_dc (s : State) (i : InstNo) (u : Env) : (s.setEnv i u).dc = s.dc := rfl
@[simp] theorem setEnv_li (s : State) (i : InstNo) (u : Env) : (s.setEnv i u).li = s.li := rfl
@[simp] theorem setEnv_ds (s : State) (i : InstNo) (u : Env) : (s.setEnv i u).ds = s.ds := rfl
@[simp] theorem setEnv_xo (s : State) (i : InstNo) (u : Env) : (s.setEnv i u).xo = s.xo := rfl
@[simp] theorem setEnv_md (s : State) (i : InstNo) (u : Env) : (s.setEnv i u).md = s.md := rfl
@[simp] theorem setEnv_nco (s : State) (i : InstNo) (u : Env) : (s.setEnv i u).nco = s.nco := rfl
@[simp] theorem setEnv_zc (s : State) (i : InstNo) (u : Env) : (s.setEnv i u).zc = s.zc := rfl
@[simp] theorem setEnv_env (s : State) (i : InstNo) (u : Env) : (s.setEnv i u).env = s.env.set i.toNat u := rfl
@[simp] theorem setEnv_gp (s : State) (i : InstNo) (u : Env) : (s.setEnv i u).gp = s.gp := rfl
@[simp] theorem setEnv_bus (s : State) (i : InstNo) (u : Env) : (s.setEnv i u).bus = s.bus := rfl
@[simp] theorem setEnv_readData (s : State) (i : InstNo) (u : Env) : (s.setEnv i u).readData = s.readData := rfl

/-! ## State.setGp -/

@[simp] theorem setGp_d (s : State) (i : InstNo) (u : Gp) : (s.setGp i u).d = s.d := rfl
@[simp] theorem setGp_written (s : State) (i : InstNo) (u : Gp) : (s.setGp i u).written = s.written := rfl
@[simp] theorem setGp_status (s : State) (i : InstNo) (u : Gp) : (s.setGp i u).status = s.status := rfl
@[simp] theorem setGp_fs (s : State) (i : InstNo) (u : Gp) : (s.setGp i u).fs = s.fs := rfl
@[simp] theorem setGp_bq (s : State) (i : InstNo) (u : Gp) : (s.setGp i u).bq = s.bq := rfl
@[simp] theorem setGp_lp (s : State) (i : InstNo) (u : Gp) : (s.setGp i u).lp = s.lp := rfl
@[simp] theorem setGp_hp (s : State) (i : InstNo) (u : Gp) : (s.setGp i u).hp = s.hp := rfl
@[simp] theorem setGp_sc (s : State) (i : InstNo) (u : Gp) : (s.setGp i u).sc = s.sc := rfl
@[simp] theorem setGp_dl (s : State) (i : InstNo) (u : Gp) : (s.setGp i u).dl = s.dl := rfl
@[simp] theorem setGp_dc (s : State) (i : InstNo) (u : Gp) : (s.setGp i u).dc = s.dc := rfl
@[simp] theorem setGp_li (s : State) (i : InstNo) (u : Gp) : (s.setGp i u).li = s.li := rfl
@[simp] theorem setGp_ds (s : State) (i : InstNo) (u : Gp) : (s.setGp i u).ds = s.ds := rfl
@[simp] theorem setGp_xo (s : State) (i : InstNo) (u : Gp) : (s.setGp i u).xo = s.xo := rfl
@[simp] theorem setGp_md (s : State) (i : InstNo) (u : Gp) : (s.setGp i u).md = s.md := rfl
@[simp] theorem setGp_nco (s : State) (i : InstNo) (u : Gp) : (s.setGp i u).nco = s.nco := rfl
@[simp] theorem setGp_zc (s : State) (i : InstNo) (u : Gp) : (s.setGp i u).zc = s.zc := rfl
@[simp] theorem setGp_env (s : State) (i : InstNo) (u : Gp) : (s.setGp i u).env = s.env := rfl
@[simp] theorem setGp_gp (s : State) (i : InstNo) (u : Gp) : (s.setGp i u).gp = s.gp.set i.toNat u := rfl
@[simp] theorem setGp_bus (s : State) (i : InstNo) (u : Gp) : (s.setGp i u).bus = s.bus := rfl
@[simp] theorem setGp_readData (s : State) (i : InstNo) (u : Gp) : (s.setGp i u).readData = s.readData := rfl

/-! ## State.setFlagIf -/

@[simp] theorem setFlagIf_d (s : State) (c : Bool) (m : Word) : (s.setFlagIf c m).d = s.d := by
  cases c <;> rfl
@[simp] theorem setFlagIf_written (s : State) (c : Bool) (m : Word) : (s.setFlagIf c m).written = s.written := by
  cases c <;> rfl
@[simp] theorem setFlagIf_status (s : State) (c : Bool) (m : Word) : (s.setFlagIf c m).status = if c then s.status ||| m else s.status := by
  cases c <;> rfl
@[simp] theorem setFlagIf_fs (s : State) (c : Bool) (m : Word) : (s.setFlagIf c m).fs = s.fs := by
  cases c <;> rfl
@[simp] theorem setFlagIf_bq (s : State) (c : Bool) (m : Word) : (s.setFlagIf c m).bq = s.bq := by
  cases c <;> rfl
@[simp] theorem setFlagIf_lp (s : State) (c : Bool) (m : Word) : (s.setFlagIf c m).lp = s.lp := by
  cases c <;> rfl
@[simp] theorem setFlagIf_hp (s : State) (c : Bool) (m : Word) : (s.setFlagIf c m).hp = s.hp := by
  cases c <;> rfl
@[simp] theorem setFlagIf_sc (s : State) (c : Bool) (m : Word) : (s.setFlagIf c m).sc = s.sc := by
  cases c <;> rfl
@[simp] theorem setFlagIf_dl (s : State) (c : Bool) (m : Word) : (s.setFlagIf c m).dl = s.dl := by
  cases c <;> rfl
@[simp] theorem setFlagIf_dc (s : State) (c : Bool) (m : Word) : (s.setFlagIf c m).dc = s.dc := by
  cases c <;> rfl
@[simp] theorem setFlagIf_li (s : State) (c : Bool) (m : Word) : (s.setFlagIf c m).li = s.li := by
  cases c <;> rfl
@[simp] theorem setFlagIf_ds (s : State) (c : Bool) (m : Word) : (s.setFlagIf c m).ds = s.ds := by
  cases c <;> rfl
@[simp] theorem setFlagIf_xo (s : State) (c : Bool) (m : Word) : (s.setFlagIf c m).xo = s.xo := by
  cases c <;> rfl
@[simp] theorem setFlagIf_md (s : State) (c : Bool) (m : Word) : (s.setFlagIf c m).md = s.md := by
  cases c <;> rfl
@[simp] theorem setFlagIf_nco (s : State) (c : Bool) (m : Word) : (s.setFlagIf c m).nco = s.nco := by
  cases c <;> rfl
@[simp] theorem setFlagIf_zc (s : State) (c : Bool) (m : Word) : (s.setFlagIf c m).zc = s.zc := by
  cases c <;> rfl
@[simp] theorem setFlagIf_env (s : State) (c : Bool) (m : Word) : (s.setFlagIf c m).env = s.env := by
  cases c <;> rfl
@[simp] theorem setFlagIf_gp (s : State) (c : Bool) (m : Word) : (s.setFlagIf c m).gp = s.gp := by
  cases c <;> rfl
@[simp] theorem setFlagIf_bus (s : State) (c : Bool) (m : Word) : (s.setFlagIf c m).bus = s.bus := by
  cases c <;> rfl
@[simp] theorem setFlagIf_readData (s : State) (c : Bool) (m : Word) : (s.setFlagIf c m).readData = s.readData := by
  cases c <;> rfl

/-! ## State.stickyNV -/

@[simp] theorem stickyNV_d (s : State) (xs : List Word) : (s.stickyNV xs).d = s.d := by
  unfold State.stickyNV; split <;> rfl
@[simp] theorem stickyNV_written (s : State) (xs : List Word) : (s.stickyNV xs).written = s.written := by
  unfold State.stickyNV; split <;> rfl
@[simp] theorem stickyNV_status (s : State) (xs : List Word) : (s.stickyNV xs).status = if xs.any F32.isNaN then s.status ||| nvMask else s.status := by
  unfold State.stickyNV; split <;> rfl
@[simp] theorem stickyNV_fs (s : State) (xs : List Word) : (s.stickyNV xs).fs = s.fs := by
  unfold State.stickyNV; split <;> rfl
@[simp] theorem stickyNV_bq (s : State) (xs : List Word) : (s.stickyNV xs).bq = s.bq := by
  unfold State.stickyNV; split <;> rfl
@[simp] theorem stickyNV_lp (s : State) (xs : List Word) : (s.stickyNV xs).lp = s.lp := by
  unfold State.stickyNV; split <;> rfl
@[simp] theorem stickyNV_hp (s : State) (xs : List Word) : (s.stickyNV xs).hp = s.hp := by
  unfold State.stickyNV; split <;> rfl
@[simp] theorem stickyNV_sc (s : State) (xs : List Word) : (s.stickyNV xs).sc = s.sc := by
  unfold State.stickyNV; split <;> rfl
@[simp] theorem stickyNV_dl (s : State) (xs : List Word) : (s.stickyNV xs).dl = s.dl := by
  unfold State.stickyNV; split <;> rfl
@[simp] theorem stickyNV_dc (s : State) (xs : List Word) : (s.stickyNV xs).dc = s.dc := by
  unfold State.stickyNV; split <;> rfl
@[simp] theorem stickyNV_li (s : State) (xs : List Word) : (s.stickyNV xs).li = s.li := by
  unfold State.stickyNV; split <;> rfl
@[simp] theorem stickyNV_ds (s : State) (xs : List Word) : (s.stickyNV xs).ds = s.ds := by
  unfold State.stickyNV; split <;> rfl
@[simp] theorem stickyNV_xo (s : State) (xs : List Word) : (s.stickyNV xs).xo = s.xo := by
  unfold State.stickyNV; split <;> rfl
@[simp] theorem stickyNV_md (s : State) (xs : List Word) : (s.stickyNV xs).md = s.md := by
  unfold State.stickyNV; split <;> rfl
@[simp] theorem stickyNV_nco (s : State) (xs : List Word) : (s.stickyNV xs).nco = s.nco := by
  unfold State.stickyNV; split <;> rfl
@[simp] theorem stickyNV_zc (s : State) (xs : List Word) : (s.stickyNV xs).zc = s.zc := by
  unfold State.stickyNV; split <;> rfl
@[simp] theorem stickyNV_env (s : State) (xs : List Word) : (s.stickyNV xs).env = s.env := by
  unfold State.stickyNV; split <;> rfl
@[simp] theorem stickyNV_gp (s : State) (xs : List Word) : (s.stickyNV xs).gp = s.gp := by
  unfold State.stickyNV; split <;> rfl
@[simp] theorem stickyNV_bus (s : State) (xs : List Word) : (s.stickyNV xs).bus = s.bus := by
  unfold State.stickyNV; split <;> rfl
@[simp] theorem stickyNV_readData (s : State) (xs : List Word) : (s.stickyNV xs).readData = s.readData := by
  unfold State.stickyNV; split <;> rfl

/-! ## State.result -/

@[simp] theorem result_d (s : State) (xs : List Word) (r : Reg) (y : Word) : (s.result xs r y).d = s.d.set r.toNat y r.isLt := by
  simp [State.result]
@[simp] theorem result_written (s : State) (xs : List Word) (r : Reg) (y : Word) : (s.result xs r y).written = s.written.set r.toNat true r.isLt := by
  simp [State.result]
@[simp] theorem result_status (s : State) (xs : List Word) (r : Reg) (y : Word) : (s.result xs r y).status = if xs.any F32.isNaN then s.status ||| nvMask else s.status := by
  simp [State.result]
@[simp] theorem result_fs (s : State) (xs : List Word) (r : Reg) (y : Word) : (s.result xs r y).fs = s.fs := by
  simp [State.result]
@[simp] theorem result_bq (s : State) (xs : List Word) (r : Reg) (y : Word) : (s.result xs r y).bq = s.bq := by
  simp [State.result]
@[simp] theorem result_lp (s : State) (xs : List Word) (r : Reg) (y : Word) : (s.result xs r y).lp = s.lp := by
  simp [State.result]
@[simp] theorem result_hp (s : State) (xs : List Word) (r : Reg) (y : Word) : (s.result xs r y).hp = s.hp := by
  simp [State.result]
@[simp] theorem result_sc (s : State) (xs : List Word) (r : Reg) (y : Word) : (s.result xs r y).sc = s.sc := by
  simp [State.result]
@[simp] theorem result_dl (s : State) (xs : List Word) (r : Reg) (y : Word) : (s.result xs r y).dl = s.dl := by
  simp [State.result]
@[simp] theorem result_dc (s : State) (xs : List Word) (r : Reg) (y : Word) : (s.result xs r y).dc = s.dc := by
  simp [State.result]
@[simp] theorem result_li (s : State) (xs : List Word) (r : Reg) (y : Word) : (s.result xs r y).li = s.li := by
  simp [State.result]
@[simp] theorem result_ds (s : State) (xs : List Word) (r : Reg) (y : Word) : (s.result xs r y).ds = s.ds := by
  simp [State.result]
@[simp] theorem result_xo (s : State) (xs : List Word) (r : Reg) (y : Word) : (s.result xs r y).xo = s.xo := by
  simp [State.result]
@[simp] theorem result_md (s : State) (xs : List Word) (r : Reg) (y : Word) : (s.result xs r y).md = s.md := by
  simp [State.result]
@[simp] theorem result_nco (s : State) (xs : List Word) (r : Reg) (y : Word) : (s.result xs r y).nco = s.nco := by
  simp [State.result]
@[simp] theorem result_zc (s : State) (xs : List Word) (r : Reg) (y : Word) : (s.result xs r y).zc = s.zc := by
  simp [State.result]
@[simp] theorem result_env (s : State) (xs : List Word) (r : Reg) (y : Word) : (s.result xs r y).env = s.env := by
  simp [State.result]
@[simp] theorem result_gp (s : State) (xs : List Word) (r : Reg) (y : Word) : (s.result xs r y).gp = s.gp := by
  simp [State.result]
@[simp] theorem result_bus (s : State) (xs : List Word) (r : Reg) (y : Word) : (s.result xs r y).bus = s.bus := by
  simp [State.result]
@[simp] theorem result_readData (s : State) (xs : List Word) (r : Reg) (y : Word) : (s.result xs r y).readData = s.readData := by
  simp [State.result]

/-! ## State.writeSample -/

@[simp] theorem writeSample_d (s : State) (r : Reg) (v : Word) : (s.writeSample r v).d = s.d.set r.toNat (sampleWord (sampleClamp v)) r.isLt := by
  simp [State.writeSample]
@[simp] theorem writeSample_written (s : State) (r : Reg) (v : Word) : (s.writeSample r v).written = s.written.set r.toNat true r.isLt := by
  simp [State.writeSample]
@[simp] theorem writeSample_status (s : State) (r : Reg) (v : Word) : (s.writeSample r v).status = if !F32.eq (sampleClamp v) v then s.status ||| oclampMask else s.status := by
  simp [State.writeSample]
@[simp] theorem writeSample_fs (s : State) (r : Reg) (v : Word) : (s.writeSample r v).fs = s.fs := by
  simp [State.writeSample]
@[simp] theorem writeSample_bq (s : State) (r : Reg) (v : Word) : (s.writeSample r v).bq = s.bq := by
  simp [State.writeSample]
@[simp] theorem writeSample_lp (s : State) (r : Reg) (v : Word) : (s.writeSample r v).lp = s.lp := by
  simp [State.writeSample]
@[simp] theorem writeSample_hp (s : State) (r : Reg) (v : Word) : (s.writeSample r v).hp = s.hp := by
  simp [State.writeSample]
@[simp] theorem writeSample_sc (s : State) (r : Reg) (v : Word) : (s.writeSample r v).sc = s.sc := by
  simp [State.writeSample]
@[simp] theorem writeSample_dl (s : State) (r : Reg) (v : Word) : (s.writeSample r v).dl = s.dl := by
  simp [State.writeSample]
@[simp] theorem writeSample_dc (s : State) (r : Reg) (v : Word) : (s.writeSample r v).dc = s.dc := by
  simp [State.writeSample]
@[simp] theorem writeSample_li (s : State) (r : Reg) (v : Word) : (s.writeSample r v).li = s.li := by
  simp [State.writeSample]
@[simp] theorem writeSample_ds (s : State) (r : Reg) (v : Word) : (s.writeSample r v).ds = s.ds := by
  simp [State.writeSample]
@[simp] theorem writeSample_xo (s : State) (r : Reg) (v : Word) : (s.writeSample r v).xo = s.xo := by
  simp [State.writeSample]
@[simp] theorem writeSample_md (s : State) (r : Reg) (v : Word) : (s.writeSample r v).md = s.md := by
  simp [State.writeSample]
@[simp] theorem writeSample_nco (s : State) (r : Reg) (v : Word) : (s.writeSample r v).nco = s.nco := by
  simp [State.writeSample]
@[simp] theorem writeSample_zc (s : State) (r : Reg) (v : Word) : (s.writeSample r v).zc = s.zc := by
  simp [State.writeSample]
@[simp] theorem writeSample_env (s : State) (r : Reg) (v : Word) : (s.writeSample r v).env = s.env := by
  simp [State.writeSample]
@[simp] theorem writeSample_gp (s : State) (r : Reg) (v : Word) : (s.writeSample r v).gp = s.gp := by
  simp [State.writeSample]
@[simp] theorem writeSample_bus (s : State) (r : Reg) (v : Word) : (s.writeSample r v).bus = s.bus := by
  simp [State.writeSample]
@[simp] theorem writeSample_readData (s : State) (r : Reg) (v : Word) : (s.writeSample r v).readData = s.readData := by
  simp [State.writeSample]

/-! ## State.resetInstance -/

@[simp] theorem resetInstance_d (s : State) (u : UnitName) (i : Nat) : (s.resetInstance u i).d = s.d := by
  cases u <;> rfl
@[simp] theorem resetInstance_written (s : State) (u : UnitName) (i : Nat) : (s.resetInstance u i).written = s.written := by
  cases u <;> rfl
@[simp] theorem resetInstance_status (s : State) (u : UnitName) (i : Nat) : (s.resetInstance u i).status = s.status := by
  cases u <;> rfl
@[simp] theorem resetInstance_fs (s : State) (u : UnitName) (i : Nat) : (s.resetInstance u i).fs = s.fs := by
  cases u <;> rfl
@[simp] theorem resetInstance_bus (s : State) (u : UnitName) (i : Nat) : (s.resetInstance u i).bus = s.bus := by
  cases u <;> rfl
@[simp] theorem resetInstance_readData (s : State) (u : UnitName) (i : Nat) : (s.resetInstance u i).readData = s.readData := by
  cases u <;> rfl

/-! ## State.setParam -/

@[simp] theorem setParam_d (s : State) (u : UnitName) (i idx : Nat) (v : Word) : (s.setParam u i idx v).d = s.d := by
  cases u <;> first | rfl | (simp only [State.setParam]; split <;> rfl)
@[simp] theorem setParam_written (s : State) (u : UnitName) (i idx : Nat) (v : Word) : (s.setParam u i idx v).written = s.written := by
  cases u <;> first | rfl | (simp only [State.setParam]; split <;> rfl)
@[simp] theorem setParam_status (s : State) (u : UnitName) (i idx : Nat) (v : Word) : (s.setParam u i idx v).status = s.status := by
  cases u <;> first | rfl | (simp only [State.setParam]; split <;> rfl)
@[simp] theorem setParam_bus (s : State) (u : UnitName) (i idx : Nat) (v : Word) : (s.setParam u i idx v).bus = s.bus := by
  cases u <;> first | rfl | (simp only [State.setParam]; split <;> rfl)
@[simp] theorem setParam_readData (s : State) (u : UnitName) (i idx : Nat) (v : Word) : (s.setParam u i idx v).readData = s.readData := by
  cases u <;> first | rfl | (simp only [State.setParam]; split <;> rfl)

/-! ## State.resetAll -/

@[simp] theorem resetAll_d (s : State) : s.resetAll.d = s.d := rfl
@[simp] theorem resetAll_written (s : State) : s.resetAll.written = s.written := rfl
@[simp] theorem resetAll_status (s : State) : s.resetAll.status = s.status := rfl
@[simp] theorem resetAll_fs (s : State) : s.resetAll.fs = s.fs := rfl
@[simp] theorem resetAll_bq (s : State) : s.resetAll.bq = s.bq.map resetBq := rfl
@[simp] theorem resetAll_lp (s : State) : s.resetAll.lp = s.lp.map resetLp := rfl
@[simp] theorem resetAll_hp (s : State) : s.resetAll.hp = s.hp.map resetHp := rfl
@[simp] theorem resetAll_sc (s : State) : s.resetAll.sc = s.sc.map resetSc := rfl
@[simp] theorem resetAll_dl (s : State) : s.resetAll.dl = s.dl.map resetDl := rfl
@[simp] theorem resetAll_dc (s : State) : s.resetAll.dc = s.dc.map resetDc := rfl
@[simp] theorem resetAll_li (s : State) : s.resetAll.li = s.li.map resetLi := rfl
@[simp] theorem resetAll_ds (s : State) : s.resetAll.ds = s.ds.map resetDs := rfl
@[simp] theorem resetAll_xo (s : State) : s.resetAll.xo = s.xo.map resetXo := rfl
@[simp] theorem resetAll_md (s : State) : s.resetAll.md = s.md.map resetMd := rfl
@[simp] theorem resetAll_nco (s : State) : s.resetAll.nco = s.nco.map resetNco := rfl
@[simp] theorem resetAll_zc (s : State) : s.resetAll.zc = s.zc.map resetZc := rfl
@[simp] theorem resetAll_env (s : State) : s.resetAll.env = s.env.map resetEnv := rfl
@[simp] theorem resetAll_gp (s : State) : s.resetAll.gp = s.gp.map resetGp := rfl
@[simp] theorem resetAll_bus (s : State) : s.resetAll.bus = s.bus := rfl
@[simp] theorem resetAll_readData (s : State) : s.resetAll.readData = s.readData := rfl

end Sys2Proof.Machine
end

