-- ==== Sys2Proof/Laws/Registers.lean ====
section
/-! SUPPORT. Registers and STATUS: what a read gives after a write, and what each shared end of a command does, said once
in the terms of Safety.lean. -/

namespace Sys2Proof.Machine

theorem reg_eq (s : State) (r : Reg) : s.reg r = s.d[r.toNat]'(r.isLt) := rfl

theorem isWritten_eq (s : State) (r : Reg) : s.isWritten r = s.written[r.toNat]'(r.isLt) := rfl

/-- A register read depends on the data registers alone. -/
theorem reg_congr {s t : State} (h : t.d = s.d) (r : Reg) : t.reg r = s.reg r := by rw [reg_eq, reg_eq]; simp only [h]

theorem isWritten_congr {s t : State} (h : t.written = s.written) (r : Reg) : t.isWritten r = s.isWritten r := by
  rw [isWritten_eq, isWritten_eq]; simp only [h]

theorem reg_writeReg (s : State) (r r' : Reg) (v : Word) :
    (s.writeReg r v).reg r' = if r' = r then v else s.reg r' := by
  simp only [reg_eq, writeReg_d, Vector.getElem_set]
  by_cases h : r' = r
  · simp [h]
  · have : ¬ r.toNat = r'.toNat := fun e => h (BitVec.eq_of_toNat_eq e.symm)
    simp [h, this]

theorem isWritten_writeReg (s : State) (r r' : Reg) (v : Word) :
    (s.writeReg r v).isWritten r' = (decide (r' = r) || s.isWritten r') := by
  simp only [isWritten_eq, writeReg_written, Vector.getElem_set]
  by_cases h : r' = r
  · simp [h]
  · have : ¬ r.toNat = r'.toNat := fun e => h (BitVec.eq_of_toNat_eq e.symm)
    simp [h, this]

@[simp] theorem reg_writeReg_same (s : State) (r : Reg) (v : Word) : (s.writeReg r v).reg r = v := by
  simp [reg_writeReg]

@[simp] theorem isWritten_writeReg_same (s : State) (r : Reg) (v : Word) : (s.writeReg r v).isWritten r = true := by
  simp [isWritten_writeReg]

theorem reg_writeReg_other (s : State) {r r' : Reg} (h : r' ≠ r) (v : Word) : (s.writeReg r v).reg r' = s.reg r' := by
  simp [reg_writeReg, h]

theorem isWritten_writeReg_other (s : State) {r r' : Reg} (h : r' ≠ r) (v : Word) :
    (s.writeReg r v).isWritten r' = s.isWritten r' := by
  simp [isWritten_writeReg, h]

@[simp] theorem reg_setFlags (s : State) (m : Word) (r : Reg) : (s.setFlags m).reg r = s.reg r := rfl
@[simp] theorem reg_setFlagIf (s : State) (c : Bool) (m : Word) (r : Reg) : (s.setFlagIf c m).reg r = s.reg r :=
  reg_congr (by simp) r
@[simp] theorem reg_stickyNV (s : State) (xs : List Word) (r : Reg) : (s.stickyNV xs).reg r = s.reg r :=
  reg_congr (by simp) r
@[simp] theorem isWritten_setFlags (s : State) (m : Word) (r : Reg) : (s.setFlags m).isWritten r = s.isWritten r := rfl
@[simp] theorem isWritten_setFlagIf (s : State) (c : Bool) (m : Word) (r : Reg) :
    (s.setFlagIf c m).isWritten r = s.isWritten r := isWritten_congr (by simp) r
@[simp] theorem isWritten_stickyNV (s : State) (xs : List Word) (r : Reg) :
    (s.stickyNV xs).isWritten r = s.isWritten r := isWritten_congr (by simp) r

/-- R36: StickyNV adds the NV bit where a value is a NaN. -/
theorem stickyNV_status_bits (s : State) (xs : List Word) : (s.stickyNV xs).status = s.status ||| nvBits xs := by
  unfold State.stickyNV nvBits
  split <;> simp [nvMask]

theorem setFlagIf_status_bits (s : State) (c : Bool) (m : Word) : (s.setFlagIf c m).status = s.status ||| bitIf c m := by
  unfold State.setFlagIf bitIf
  split <;> simp

/-- Everything a register write does. -/
theorem writeReg_spec (s : State) (r : Reg) (v : Word) : wroteOnly [] r v 0 s (s.writeReg r v) := by
  refine ⟨⟨by simp, by simp⟩, ?_, by simp, by simp [banksKept], by simp [busKept]⟩
  intro r' h
  rw [List.mem_singleton] at h
  exact ⟨reg_writeReg_other s h v, isWritten_writeReg_other s h v⟩

/-- Everything the end of a float command does. -/
theorem result_spec (s : State) (nv : List Word) (r : Reg) (y : Word) :
    wroteOnly [] r y (nvBits nv) s (s.result nv r y) := by
  refine ⟨⟨by simp [State.result], by simp [State.result]⟩, ?_, ?_, by simp [banksKept], by simp [busKept]⟩
  · intro r' h
    rw [List.mem_singleton] at h
    simp [State.result, reg_writeReg_other _ h, isWritten_writeReg_other _ h]
  · exact stickyNV_status_bits s nv

/-- Everything the end of CVTFI does (R175, R176). -/
theorem writeSample_spec (s : State) (r : Reg) (v : Word) :
    wroteOnly [] r (sampleWord (sampleClamp v)) (bitIf (!F32.eq (sampleClamp v) v) oclampMask) s (s.writeSample r v) := by
  refine ⟨⟨by simp [State.writeSample], by simp [State.writeSample]⟩, ?_, ?_, by simp [banksKept], by simp [busKept]⟩
  · intro r' h
    rw [List.mem_singleton] at h
    simp [State.writeSample, reg_writeReg_other _ h, isWritten_writeReg_other _ h]
  · exact setFlagIf_status_bits s _ oclampMask

/-- R321: the machine's cause codes are the table's. -/
theorem causeCode_eq_codeOfCause (c : Cause) : causeCode c = codeOfCause c := by cases c <;> rfl

/-- Everything a rejection does (R322), as a change of STATUS's fields. -/
theorem reject_spec (s : State) (c : Cause) : rejectedWith c s (s.reject c) := by
  refine ⟨?_, ?_, ?_, rfl⟩
  · simp [illMask]
  · change (s.reject c).cause = if s.ill then s.cause else codeOfCause c
    rw [← causeCode_eq_codeOfCause]
    unfold State.cause State.reject
    by_cases h : s.ill = true
    · simp only [h, if_true]
      ext i hi
      interval_cases i <;> simp [illMask, BitVec.getElem_or, BitVec.getElem_extractLsb']
    · simp only [h, if_false, Bool.false_eq_true]
      cases c <;> (ext i hi; interval_cases i <;> simp [illMask, causeMask, causeCode])
  · unfold State.reject
    by_cases h : s.ill = true
    · simp only [h, if_true]
      ext i hi
      interval_cases i <;> simp [illMask]
    · simp only [h, if_false, Bool.false_eq_true]
      cases c <;> (ext i hi; interval_cases i <;> simp [illMask, causeMask, causeCode])

end Sys2Proof.Machine
end

