-- ==== Sys2Proof/Laws/Ops.lean ====
section
/-! SUPPORT. The shared operations of Machine/Ops.lean: what each can do, said once. -/

namespace Sys2Proof.Machine

/-! ## Banks -/

/-- A bank that is put back in its place replaces that one entry. -/
theorem replaced_set {l : List α} {i : Nat} {u : α} (h : l[i]? = some u) (v : α) : replaced l i v (l.set i v) := by
  have hi : i < l.length := (List.getElem?_eq_some_iff.1 h).1
  refine ⟨by simp, by simp [hi], ?_⟩
  intro j hj
  rw [List.getElem?_set_ne (Ne.symm hj)]

/-- A bank changed in place is the same function of the old bank, in that place alone. -/
theorem getElem?_modify_ite (l : List α) (f : α → α) (i j : Nat) :
    (l.modify i f)[j]? = if i = j then l[j]?.map f else l[j]? := by
  rw [List.getElem?_modify]
  split <;> simp

/-- The number of instances of a unit depends on the lists alone. -/
theorem count_congr {s t : State} (h : banksKept [] s t) (u : UnitName) : t.count u = s.count u := by
  obtain ⟨-, h⟩ := h
  cases u <;> simp_all [State.count]

/-! ## Rings -/

/-- R82: a write keeps a good ring good. -/
theorem bufWrite_ok {b : Ring} (h : RingOk b) (v : Word) : RingOk (bufWrite b v) := by
  obtain ⟨hw, hwf, hin⟩ := h
  exact ⟨Nat.mod_lt _ (Nat.zero_lt_of_lt hw), write_wf hwf _ _, write_within hin hw _⟩

@[simp] theorem bufWrite_cap (b : Ring) (v : Word) : (bufWrite b v).cap = b.cap := rfl
@[simp] theorem bufWrite_w (b : Ring) (v : Word) : (bufWrite b v).w = (b.w + 1) % b.cap := rfl

/-- R82: what each slot reads as after a write. -/
theorem bufWrite_read {b : Ring} (h : b.buf.wf = true) (v : Word) (a : Nat) :
    (bufWrite b v).buf.read a = if a = b.w then v else b.buf.read a :=
  write_read h b.w a v

/-- R354: a write of a zero keeps a silent ring silent. -/
theorem bufWrite_silent {b : Ring} (h : b.buf.wf = true) (hs : RingSilent b) {v : Word} (hv : F32.isZero v = true) :
    RingSilent (bufWrite b v) := by
  intro a
  rw [bufWrite_read h]
  split
  · exact hv
  · exact hs a

/-- R354: every read of a silent ring is a zero. -/
theorem bufRead_silent {b : Ring} (hs : RingSilent b) (k : Nat) : F32.isZero (bufRead b k) = true := hs _

/-- R350: a reset ring is good if its capacity is not 0. -/
theorem resetRing_ok {b : Ring} (h : 0 < b.cap) : RingOk (resetRing b) := ⟨h, rfl, rfl⟩

theorem powerOnRing_ok {cap : Nat} (h : 0 < cap) : RingOk (powerOnRing cap) := ⟨h, rfl, rfl⟩

@[simp] theorem resetRing_cap (b : Ring) : (resetRing b).cap = b.cap := rfl

theorem bufSlot_lt {b : Ring} (h : 0 < b.cap) (k : Nat) : bufSlot b k < b.cap := Nat.mod_lt _ h

/-! ## NaN results stay canonical (R19) -/

theorem lerp_canon (a b t : Word) : F32.canon (F32.lerp a b t) = F32.lerp a b t := F32.add_canon ..

theorem sub_canon (a b : Word) : F32.canon (F32.sub a b) = F32.sub a b := F32.add_canon ..

theorem onePole_canon (y a x : Word) : F32.canon (onePole y a x) = onePole y a x := F32.add_canon ..

theorem fracRead_canon (b : Ring) (dly : Word) : F32.canon (fracRead b dly) = fracRead b dly := lerp_canon ..

theorem atanShaper_canon (u : Word) : F32.canon (atanShaper u) = atanShaper u := F32.mul_canon ..

/-! ## Parameter writes -/

/-- R40: the range of a class is the one the rule's table writes. -/
theorem classRange_eq_legalRange (s : State) (i : Nat) (c : ParamClass) :
    s.classRange i c = legalRange s.dl.length ((s.gp[i]?.map fun g => g.ring.cap).getD 0) c := by
  cases c
  case glen => cases h : s.gp[i]? <;> simp [State.classRange, legalRange, h, F32.two]
  all_goals rfl

/-- The value a parameter write stores. -/
def storedParam (s : State) (i : Nat) (c : ParamClass) (x : Word) : Word :=
  if c.isInteger then F32.trunc (F32.clamp x (s.classRange i c).1 (s.classRange i c).2)
  else F32.clamp x (s.classRange i c).1 (s.classRange i c).2

/-- R41: a NaN only sets PNAN. -/
theorem paramWrite_nan {s : State} {u : UnitName} {i idx : Nat} {x : Word} (h : F32.isNaN x = true) :
    s.paramWrite u i idx x = s.setFlags pnanMask := by
  unfold State.paramWrite; rw [if_pos h]

/-- R41, R42: any other value is clamped, truncated where the parameter is an integer one, and stored. -/
theorem paramWrite_value {s : State} {u : UnitName} {i idx : Nat} {x : Word} {name : String} {c : ParamClass}
    (h : F32.isNaN x = false) (hp : (paramTable u)[idx]? = some (name, c)) :
    s.paramWrite u i idx x =
      (s.setFlagIf (!F32.eq (F32.clamp x (s.classRange i c).1 (s.classRange i c).2) x) pclampMask).setParam u i idx
        (storedParam s i c x) := by
  unfold State.paramWrite storedParam
  rw [if_neg (by simp [h]), hp]

/-- Writing a parameter touches the data registers, STATUS and the bus in no way. -/
theorem setParam_frame (s : State) (u : UnitName) (i idx : Nat) (v : Word) :
    touchedOnly [u] 0 s (s.setParam u i idx v) := by
  refine ⟨?_, by simp, ?_, ⟨by simp, by simp⟩⟩
  · intro r _
    exact ⟨reg_congr (by simp) r, isWritten_congr (by simp) r⟩
  · cases u <;> simp only [banksKept, State.setParam] <;> (try split) <;> simp

/-- Resetting an instance touches the data registers, STATUS and the bus in no way. -/
theorem resetInstance_frame (s : State) (u : UnitName) (i : Nat) : touchedOnly [u] 0 s (s.resetInstance u i) := by
  refine ⟨?_, by simp, ?_, ⟨by simp, by simp⟩⟩
  · intro r _
    exact ⟨reg_congr (by simp) r, isWritten_congr (by simp) r⟩
  · cases u <;> simp [banksKept, State.resetInstance]

/-- A parameter reads as it was written, where it exists. -/
theorem param_setParam_same {s : State} {u : UnitName} {i idx : Nat} {v w : Word} (h : s.param? u i idx = some w) :
    (s.setParam u i idx v).param? u i idx = some v := by
  cases u <;>
    simp only [State.param?, State.setParam, getElem?_modify_ite, if_true, Option.bind_map] at h ⊢
  case global => split at h <;> simp_all
  case all => cases h
  all_goals
    simp only [Option.bind_eq_some_iff] at h ⊢
    obtain ⟨x, hx, hp⟩ := h
    refine ⟨x, hx, ?_⟩
    simp only [Function.comp_apply]
    first
    | (simp only [paramDl, paramLi] at hp; done)
    | (rcases idx with _ | _ | _ | _ | _ | _ | _ | _ | _ | _ | _ | idx <;>
        simp_all [paramBq, setParamBq, paramLp, setParamLp, paramHp, setParamHp, paramSc, setParamSc, paramDl, paramDc,
          setParamDc, paramLi, paramDs, setParamDs, paramXo, setParamXo, paramMd, setParamMd, paramNco, setParamNco,
          paramZc, setParamZc, paramEnv, setParamEnv, paramGp, setParamGp])

end Sys2Proof.Machine
end

