-- ==== Sys2Proof/Laws/PerInstr.lean ====
section
/-! SUPPORT. A law of every command as syntax: its encoded word is a word of its own row of the table of 30_encoding.md
R106, so every must-be-zero field is zero and the opcode and mode are the row's. -/

namespace Sys2Proof.Laws.RowMatch

/-- The encoder and the table agree on the fixed bits of a command. -/
def Statement (i : Instr) : Prop := encode i &&& i.row.mask = i.row.pattern

/-- The bits of a word of formats N, P, R and X, by position (R101). -/
theorem fields_getLsbD (op : BitVec 6) (rd ra rb rc : BitVec 4) (idx : BitVec 6) (mode : BitVec 4) (n : Nat) :
    (fields op rd ra rb rc idx mode).getLsbD n =
      if n < 4 then mode.getLsbD n
      else if n < 10 then idx.getLsbD (n - 4)
      else if n < 14 then rc.getLsbD (n - 10)
      else if n < 18 then rb.getLsbD (n - 14)
      else if n < 22 then ra.getLsbD (n - 18)
      else if n < 26 then rd.getLsbD (n - 22)
      else op.getLsbD (n - 26) := by
  simp only [fields, BitVec.getLsbD_append]
  split_ifs <;> first | rfl | omega

/-- The bits of a word of format I, by position (R101). -/
theorem fieldsImm_getLsbD (op : BitVec 6) (rd : BitVec 4) (imm : Imm16) (n : Nat) :
    (fieldsImm op rd imm).getLsbD n =
      if n < 16 then imm.getLsbD n
      else if n < 22 then false
      else if n < 26 then rd.getLsbD (n - 22)
      else op.getLsbD (n - 26) := by
  simp only [fieldsImm, BitVec.getLsbD_append]
  split_ifs <;> first | rfl | omega | simp

theorem nop : Statement .nop := by
  apply BitVec.eq_of_getLsbD_eq
  intro n hn
  rw [BitVec.getLsbD_and, encode, fields_getLsbD]
  interval_cases n <;> simp [Instr.row, rowNop]

theorem rst (unit : UnitName) (inst : InstNo) : Statement (.rst unit inst) := by
  apply BitVec.eq_of_getLsbD_eq
  intro n hn
  rw [BitVec.getLsbD_and, encode, fields_getLsbD]
  interval_cases n <;> simp [Instr.row, rowRst]

theorem setp (ra : Reg) (unit : UnitName) (inst : InstNo) (idx : Idx) : Statement (.setp ra unit inst idx) := by
  apply BitVec.eq_of_getLsbD_eq
  intro n hn
  rw [BitVec.getLsbD_and, encode, fields_getLsbD]
  interval_cases n <;> simp [Instr.row, rowSetp]

theorem getp (rd : Reg) (unit : UnitName) (inst : InstNo) (idx : Idx) : Statement (.getp rd unit inst idx) := by
  apply BitVec.eq_of_getLsbD_eq
  intro n hn
  rw [BitVec.getLsbD_and, encode, fields_getLsbD]
  interval_cases n <;> simp [Instr.row, rowGetp]

theorem gets (rd : Reg) (unit : UnitName) (inst : InstNo) (idx : Idx) : Statement (.gets rd unit inst idx) := by
  apply BitVec.eq_of_getLsbD_eq
  intro n hn
  rw [BitVec.getLsbD_and, encode, fields_getLsbD]
  interval_cases n <;> simp [Instr.row, rowGets]

theorem coef (ra : Reg) (unit : UnitName) (inst : InstNo) : Statement (.coef ra unit inst) := by
  apply BitVec.eq_of_getLsbD_eq
  intro n hn
  rw [BitVec.getLsbD_and, encode, fields_getLsbD]
  interval_cases n <;> simp [Instr.row, rowCoef]

theorem ldhi (rd : Reg) (imm : Imm16) : Statement (.ldhi rd imm) := by
  apply BitVec.eq_of_getLsbD_eq
  intro n hn
  rw [BitVec.getLsbD_and, encode, fieldsImm_getLsbD]
  interval_cases n <;> simp [Instr.row, rowLdhi]

theorem orlo (rd : Reg) (imm : Imm16) : Statement (.orlo rd imm) := by
  apply BitVec.eq_of_getLsbD_eq
  intro n hn
  rw [BitVec.getLsbD_and, encode, fieldsImm_getLsbD]
  interval_cases n <;> simp [Instr.row, rowOrlo]

theorem mov (rd : Reg) (ra : Reg) : Statement (.mov rd ra) := by
  apply BitVec.eq_of_getLsbD_eq
  intro n hn
  rw [BitVec.getLsbD_and, encode, fields_getLsbD]
  interval_cases n <;> simp [Instr.row, rowMov]

theorem fadd (rd : Reg) (ra : Reg) (rb : Reg) : Statement (.fadd rd ra rb) := by
  apply BitVec.eq_of_getLsbD_eq
  intro n hn
  rw [BitVec.getLsbD_and, encode, fields_getLsbD]
  interval_cases n <;> simp [Instr.row, rowFadd]

theorem fsub (rd : Reg) (ra : Reg) (rb : Reg) : Statement (.fsub rd ra rb) := by
  apply BitVec.eq_of_getLsbD_eq
  intro n hn
  rw [BitVec.getLsbD_and, encode, fields_getLsbD]
  interval_cases n <;> simp [Instr.row, rowFsub]

theorem fmul (rd : Reg) (ra : Reg) (rb : Reg) : Statement (.fmul rd ra rb) := by
  apply BitVec.eq_of_getLsbD_eq
  intro n hn
  rw [BitVec.getLsbD_and, encode, fields_getLsbD]
  interval_cases n <;> simp [Instr.row, rowFmul]

theorem clamp (rd : Reg) (ra : Reg) (rb : Reg) (rc : Reg) : Statement (.clamp rd ra rb rc) := by
  apply BitVec.eq_of_getLsbD_eq
  intro n hn
  rw [BitVec.getLsbD_and, encode, fields_getLsbD]
  interval_cases n <;> simp [Instr.row, rowClamp]

theorem lerp (rd : Reg) (ra : Reg) (rb : Reg) (rc : Reg) : Statement (.lerp rd ra rb rc) := by
  apply BitVec.eq_of_getLsbD_eq
  intro n hn
  rw [BitVec.getLsbD_and, encode, fields_getLsbD]
  interval_cases n <;> simp [Instr.row, rowLerp]

theorem satAtan (rd : Reg) (ra : Reg) (rb : Reg) : Statement (.satAtan rd ra rb) := by
  apply BitVec.eq_of_getLsbD_eq
  intro n hn
  rw [BitVec.getLsbD_and, encode, fields_getLsbD]
  interval_cases n <;> simp [Instr.row, rowSatAtan]

theorem satTanh (rd : Reg) (ra : Reg) (rb : Reg) : Statement (.satTanh rd ra rb) := by
  apply BitVec.eq_of_getLsbD_eq
  intro n hn
  rw [BitVec.getLsbD_and, encode, fields_getLsbD]
  interval_cases n <;> simp [Instr.row, rowSatTanh]

theorem sin2pi (rd : Reg) (ra : Reg) : Statement (.sin2pi rd ra) := by
  apply BitVec.eq_of_getLsbD_eq
  intro n hn
  rw [BitVec.getLsbD_and, encode, fields_getLsbD]
  interval_cases n <;> simp [Instr.row, rowSin2pi]

theorem cos2pi (rd : Reg) (ra : Reg) : Statement (.cos2pi rd ra) := by
  apply BitVec.eq_of_getLsbD_eq
  intro n hn
  rw [BitVec.getLsbD_and, encode, fields_getLsbD]
  interval_cases n <;> simp [Instr.row, rowCos2pi]

theorem cvtifSym (rd : Reg) (ra : Reg) : Statement (.cvtifSym rd ra) := by
  apply BitVec.eq_of_getLsbD_eq
  intro n hn
  rw [BitVec.getLsbD_and, encode, fields_getLsbD]
  interval_cases n <;> simp [Instr.row, rowCvtifSym]

theorem cvtifAsym (rd : Reg) (ra : Reg) : Statement (.cvtifAsym rd ra) := by
  apply BitVec.eq_of_getLsbD_eq
  intro n hn
  rw [BitVec.getLsbD_and, encode, fields_getLsbD]
  interval_cases n <;> simp [Instr.row, rowCvtifAsym]

theorem cvtfiSym (rd : Reg) (ra : Reg) : Statement (.cvtfiSym rd ra) := by
  apply BitVec.eq_of_getLsbD_eq
  intro n hn
  rw [BitVec.getLsbD_and, encode, fields_getLsbD]
  interval_cases n <;> simp [Instr.row, rowCvtfiSym]

theorem cvtfiAsym (rd : Reg) (ra : Reg) : Statement (.cvtfiAsym rd ra) := by
  apply BitVec.eq_of_getLsbD_eq
  intro n hn
  rw [BitVec.getLsbD_and, encode, fields_getLsbD]
  interval_cases n <;> simp [Instr.row, rowCvtfiAsym]

theorem bqStep (rd : Reg) (ra : Reg) (inst : InstNo) : Statement (.bqStep rd ra inst) := by
  apply BitVec.eq_of_getLsbD_eq
  intro n hn
  rw [BitVec.getLsbD_and, encode, fields_getLsbD]
  interval_cases n <;> simp [Instr.row, rowBqStep]

theorem lpStep (rd : Reg) (ra : Reg) (inst : InstNo) : Statement (.lpStep rd ra inst) := by
  apply BitVec.eq_of_getLsbD_eq
  intro n hn
  rw [BitVec.getLsbD_and, encode, fields_getLsbD]
  interval_cases n <;> simp [Instr.row, rowLpStep]

theorem hpStep (rd : Reg) (ra : Reg) (inst : InstNo) : Statement (.hpStep rd ra inst) := by
  apply BitVec.eq_of_getLsbD_eq
  intro n hn
  rw [BitVec.getLsbD_and, encode, fields_getLsbD]
  interval_cases n <;> simp [Instr.row, rowHpStep]

theorem scStep (rd : Reg) (ra : Reg) (inst : InstNo) : Statement (.scStep rd ra inst) := by
  apply BitVec.eq_of_getLsbD_eq
  intro n hn
  rw [BitVec.getLsbD_and, encode, fields_getLsbD]
  interval_cases n <;> simp [Instr.row, rowScStep]

theorem dlWr (ra : Reg) (inst : InstNo) : Statement (.dlWr ra inst) := by
  apply BitVec.eq_of_getLsbD_eq
  intro n hn
  rw [BitVec.getLsbD_and, encode, fields_getLsbD]
  interval_cases n <;> simp [Instr.row, rowDlWr]

theorem dlRd (rd : Reg) (ra : Reg) (inst : InstNo) : Statement (.dlRd rd ra inst) := by
  apply BitVec.eq_of_getLsbD_eq
  intro n hn
  rw [BitVec.getLsbD_and, encode, fields_getLsbD]
  interval_cases n <;> simp [Instr.row, rowDlRd]

theorem dcStep (rd : Reg) (ra : Reg) (inst : InstNo) : Statement (.dcStep rd ra inst) := by
  apply BitVec.eq_of_getLsbD_eq
  intro n hn
  rw [BitVec.getLsbD_and, encode, fields_getLsbD]
  interval_cases n <;> simp [Instr.row, rowDcStep]

theorem liStep (rd : Reg) (ra : Reg) (rb : Reg) (inst : InstNo) : Statement (.liStep rd ra rb inst) := by
  apply BitVec.eq_of_getLsbD_eq
  intro n hn
  rw [BitVec.getLsbD_and, encode, fields_getLsbD]
  interval_cases n <;> simp [Instr.row, rowLiStep]

theorem dsStep (rd : Reg) (ra : Reg) (inst : InstNo) : Statement (.dsStep rd ra inst) := by
  apply BitVec.eq_of_getLsbD_eq
  intro n hn
  rw [BitVec.getLsbD_and, encode, fields_getLsbD]
  interval_cases n <;> simp [Instr.row, rowDsStep]

theorem xoStep (rd : Reg) (ra : Reg) (inst : InstNo) : Statement (.xoStep rd ra inst) := by
  apply BitVec.eq_of_getLsbD_eq
  intro n hn
  rw [BitVec.getLsbD_and, encode, fields_getLsbD]
  interval_cases n <;> simp [Instr.row, rowXoStep]

theorem mdStep (rd : Reg) (ra : Reg) (inst : InstNo) : Statement (.mdStep rd ra inst) := by
  apply BitVec.eq_of_getLsbD_eq
  intro n hn
  rw [BitVec.getLsbD_and, encode, fields_getLsbD]
  interval_cases n <;> simp [Instr.row, rowMdStep]

theorem ncoStep (rd : Reg) (ra : Reg) (inst : InstNo) : Statement (.ncoStep rd ra inst) := by
  apply BitVec.eq_of_getLsbD_eq
  intro n hn
  rw [BitVec.getLsbD_and, encode, fields_getLsbD]
  interval_cases n <;> simp [Instr.row, rowNcoStep]

theorem zcStep (rd : Reg) (ra : Reg) (rb : Reg) (inst : InstNo) : Statement (.zcStep rd ra rb inst) := by
  apply BitVec.eq_of_getLsbD_eq
  intro n hn
  rw [BitVec.getLsbD_and, encode, fields_getLsbD]
  interval_cases n <;> simp [Instr.row, rowZcStep]

theorem envStep (rd : Reg) (ra : Reg) (inst : InstNo) : Statement (.envStep rd ra inst) := by
  apply BitVec.eq_of_getLsbD_eq
  intro n hn
  rw [BitVec.getLsbD_and, encode, fields_getLsbD]
  interval_cases n <;> simp [Instr.row, rowEnvStep]

theorem gpStep (rd : Reg) (ra : Reg) (inst : InstNo) : Statement (.gpStep rd ra inst) := by
  apply BitVec.eq_of_getLsbD_eq
  intro n hn
  rw [BitVec.getLsbD_and, encode, fields_getLsbD]
  interval_cases n <;> simp [Instr.row, rowGpStep]

end Sys2Proof.Laws.RowMatch
end

