-- ==== Sys2Proof/Laws/Transcendental.lean ====
section
/-! SUPPORT. The sequences behind the transcendental functions: bounded and monotone whatever the free function is. -/

namespace Sys2Proof.Machine.F32

/-- R16: with the range in order, clamp32 of any value that is no NaN lies between the ends. -/
theorem clamp_between {x lo hi : Word} (hx : isNaN x = false) (h : le lo hi = true) :
    le lo (clamp x lo hi) = true ∧ le (clamp x lo hi) hi = true := clamp_inRange hx h

theorem climb_between (raw : Word → Word) {start top : Word} (h : le start top = true) :
    ∀ n, le start (climb raw start top n) = true ∧ le (climb raw start top n) top = true
  | 0 => ⟨le_refl' (le_iff.1 h).1, h⟩
  | n + 1 => by
    have ih := climb_between raw h n
    unfold climb
    by_cases hr : isNaN (raw (pack false (n + 1))) = true
    · simp only [hr, if_true]; exact ih
    · rw [Bool.not_eq_true] at hr
      simp only [hr, if_false, Bool.false_eq_true]
      have hc := clamp_inRange hr ih.2
      exact ⟨le_trans' ih.1 hc.1, hc.2⟩

theorem climb_step (raw : Word → Word) {start top : Word} (h : le start top = true) (n : Nat) :
    le (climb raw start top n) (climb raw start top (n + 1)) = true := by
  have ih := climb_between raw h n
  show le (climb raw start top n) (if isNaN (raw (pack false (n + 1))) then climb raw start top n
    else clamp (raw (pack false (n + 1))) (climb raw start top n) top) = true
  by_cases hr : isNaN (raw (pack false (n + 1))) = true
  · rw [if_pos hr]; exact le_refl' (le_iff.1 ih.2).1
  · rw [if_neg hr]; exact (clamp_inRange (Bool.not_eq_true _ ▸ hr) ih.2).1

/-- The climbing sequence is monotone. -/
theorem climb_mono (raw : Word → Word) {start top : Word} (h : le start top = true) {m n : Nat} (hmn : m ≤ n) :
    le (climb raw start top m) (climb raw start top n) = true := by
  induction hmn with
  | refl => exact le_refl' (le_iff.1 (climb_between raw h m).2).1
  | step _ ih => exact le_trans' ih (climb_step raw h _)

theorem descend_between (raw : Word → Word) {start bottom : Word} (h : le bottom start = true) :
    ∀ n, le bottom (descend raw start bottom n) = true ∧ le (descend raw start bottom n) start = true
  | 0 => ⟨h, le_refl' (le_iff.1 h).2.1⟩
  | n + 1 => by
    have ih := descend_between raw h n
    unfold descend
    by_cases hr : isNaN (raw (pack true (n + 1))) = true
    · simp only [hr, if_true]; exact ih
    · rw [Bool.not_eq_true] at hr
      simp only [hr, if_false, Bool.false_eq_true]
      have hc := clamp_inRange hr ih.1
      exact ⟨hc.1, le_trans' hc.2 ih.2⟩

theorem descend_step (raw : Word → Word) {start bottom : Word} (h : le bottom start = true) (n : Nat) :
    le (descend raw start bottom (n + 1)) (descend raw start bottom n) = true := by
  have ih := descend_between raw h n
  show le (if isNaN (raw (pack true (n + 1))) then descend raw start bottom n
    else clamp (raw (pack true (n + 1))) bottom (descend raw start bottom n)) (descend raw start bottom n) = true
  by_cases hr : isNaN (raw (pack true (n + 1))) = true
  · rw [if_pos hr]; exact le_refl' (le_iff.1 ih.1).2.1
  · rw [if_neg hr]; exact (clamp_inRange (Bool.not_eq_true _ ▸ hr) ih.1).2

/-- The descending sequence is antitone. -/
theorem descend_anti (raw : Word → Word) {start bottom : Word} (h : le bottom start = true) {m n : Nat} (hmn : m ≤ n) :
    le (descend raw start bottom n) (descend raw start bottom m) = true := by
  induction hmn with
  | refl => exact le_refl' (le_iff.1 (descend_between raw h m).1).2.1
  | step _ ih => exact le_trans' (descend_step raw h _) ih

end Sys2Proof.Machine.F32
end

