-- ==== Sys2Proof/Machine/Asm.lean ====
section
/-! DEFINITION. The assembler syntax of 30_encoding.md R111, as the text of a command, and the pseudo-instructions of
R112. -/

namespace Sys2Proof.Machine

/-- The name of a unit (R111). -/
def unitText : UnitName → String
  | .global => "global"
  | .bq => "bq"
  | .lp => "lp"
  | .hp => "hp"
  | .sc => "sc"
  | .dl => "dl"
  | .dc => "dc"
  | .li => "li"
  | .ds => "ds"
  | .xo => "xo"
  | .md => "md"
  | .nco => "nco"
  | .zc => "zc"
  | .env => "env"
  | .gp => "gp"
  | .all => "all"

def regText (r : Reg) : String := "d" ++ toString r.toNat

def instText (u : UnitName) (i : InstNo) : String := unitText u ++ "[" ++ toString i.toNat ++ "]"

/-- `.<name>`, or `.<letter><idx>` where the index has no name (R111). -/
def memberText (names : List String) (letter : String) (idx : Idx) : String :=
  "." ++ (match names[idx.toNat]? with | some n => n | none => letter ++ toString idx.toNat)

def paramText (u : UnitName) (i : InstNo) (idx : Idx) : String :=
  instText u i ++ memberText ((paramTable u).map (·.1)) "p" idx

def stateText (u : UnitName) (i : InstNo) (idx : Idx) : String :=
  instText u i ++ memberText (stateTable u) "s" idx

def operandText : List String → String
  | [] => ""
  | [a] => a
  | a :: rest => a ++ ", " ++ operandText rest

/-- The text of a scalar command. -/
def scalarText (name : String) (regs : List Reg) : String := name ++ " " ++ operandText (regs.map regText)

/-- The text of a unit command. -/
def unitCommandText (u : UnitName) (i : InstNo) (name : String) (regs : List Reg) : String :=
  instText u i ++ "." ++ name ++ " " ++ operandText (regs.map regText)

/-- The assembler text of a command (R111). -/
def asmText : Instr → String
  | .nop => "nop"
  | .rst u i => if isSingleton u && i == 0 then "rst " ++ unitText u else "rst " ++ instText u i
  | .setp ra u i x => "setp " ++ paramText u i x ++ ", " ++ regText ra
  | .getp rd u i x => "getp " ++ regText rd ++ ", " ++ paramText u i x
  | .gets rd u i x => "gets " ++ regText rd ++ ", " ++ stateText u i x
  | .coef ra u i => "coef " ++ instText u i ++ ", " ++ regText ra
  | .ldhi rd imm => "ldhi " ++ regText rd ++ ", " ++ toString imm.toNat
  | .orlo rd imm => "orlo " ++ regText rd ++ ", " ++ toString imm.toNat
  | .mov rd ra => scalarText "mov" [rd, ra]
  | .fadd rd ra rb => scalarText "fadd" [rd, ra, rb]
  | .fsub rd ra rb => scalarText "fsub" [rd, ra, rb]
  | .fmul rd ra rb => scalarText "fmul" [rd, ra, rb]
  | .clamp rd ra rb rc => scalarText "clamp" [rd, ra, rb, rc]
  | .lerp rd ra rb rc => scalarText "lerp" [rd, ra, rb, rc]
  | .satAtan rd ra rb => scalarText "sat.atan" [rd, ra, rb]
  | .satTanh rd ra rb => scalarText "sat.tanh" [rd, ra, rb]
  | .sin2pi rd ra => scalarText "sin2pi" [rd, ra]
  | .cos2pi rd ra => scalarText "cos2pi" [rd, ra]
  | .cvtifSym rd ra => scalarText "cvtif.sym" [rd, ra]
  | .cvtifAsym rd ra => scalarText "cvtif.asym" [rd, ra]
  | .cvtfiSym rd ra => scalarText "cvtfi.sym" [rd, ra]
  | .cvtfiAsym rd ra => scalarText "cvtfi.asym" [rd, ra]
  | .bqStep rd ra i => unitCommandText .bq i "step" [rd, ra]
  | .lpStep rd ra i => unitCommandText .lp i "step" [rd, ra]
  | .hpStep rd ra i => unitCommandText .hp i "step" [rd, ra]
  | .scStep rd ra i => unitCommandText .sc i "step" [rd, ra]
  | .dlWr ra i => unitCommandText .dl i "wr" [ra]
  | .dlRd rd ra i => unitCommandText .dl i "rd" [rd, ra]
  | .dcStep rd ra i => unitCommandText .dc i "step" [rd, ra]
  | .liStep rd ra rb i => unitCommandText .li i "step" [rd, ra, rb]
  | .dsStep rd ra i => unitCommandText .ds i "step" [rd, ra]
  | .xoStep rd ra i => unitCommandText .xo i "step" [rd, ra]
  | .mdStep rd ra i => unitCommandText .md i "step" [rd, ra]
  | .ncoStep rd ra i => unitCommandText .nco i "step" [rd, ra]
  | .zcStep rd ra rb i => unitCommandText .zc i "step" [rd, ra, rb]
  | .envStep rd ra i => unitCommandText .env i "step" [rd, ra]
  | .gpStep rd ra i => unitCommandText .gp i "step" [rd, ra]

/-- The pseudo-instructions of R112. The literal of `lf` is the exact number `± num / den`. -/
inductive Pseudo where
  | ldi (rd : Reg) (imm : Word)
  | lf (rd : Reg) (neg : Bool) (num den : Nat)
  | clr (rd : Reg)
  | mix (rd dry wet amount : Reg)
  | hardclip (rd x lo hi : Reg)
  | atan (rd x k : Reg)
  | rstall
deriving DecidableEq, Repr

/-- `ldi dD, imm32`: the ORLO is omitted when the low half is 0 (R112). -/
def expandLdi (rd : Reg) (imm : Word) : List Instr :=
  if immField imm = 0 then [.ldhi rd (imm.extractLsb' 16 16)]
  else [.ldhi rd (imm.extractLsb' 16 16), .orlo rd (immField imm)]

/-- The commands a pseudo-instruction means (R112). -/
def expandPseudo : Pseudo → List Instr
  | .ldi rd imm => expandLdi rd imm
  | .lf rd neg num den => expandLdi rd (F32.round neg (num * 2 ^ 149) den)
  | .clr rd => [.ldhi rd 0]
  | .mix rd dry wet amount => [.lerp rd dry wet amount]
  | .hardclip rd x lo hi => [.clamp rd x lo hi]
  | .atan rd x k => [.satAtan rd x k]
  | .rstall => [.rst .all 0]

end Sys2Proof.Machine
end

