-- ==== Sys2Proof/Tests/Slice0.lean ====
section
/-! SUPPORT. The model's own tests: ill-formed commands, the words the spec writes out, the worked examples of its rules and
of 95_test_vectors.md, and a state and operands for the hypotheses of each statement. -/

namespace Sys2Proof.Tests

set_option Elab.async false

open Sys2Proof Sys2Proof.Machine

/-! ## WellFormed: a term each check refuses -/

theorem test_setp_all_ill_formed : (Instr.setp 0 .all 0 0).wellFormed = false := by decide
theorem test_getp_all_ill_formed : (Instr.getp 0 .all 0 0).wellFormed = false := by decide
theorem test_gets_all_ill_formed : (Instr.gets 0 .all 0 0).wellFormed = false := by decide
theorem test_setp_global_inst_ill_formed : (Instr.setp 0 .global 1 0).wellFormed = false := by decide
theorem test_rst_all_inst_ill_formed : (Instr.rst .all 1).wellFormed = false := by decide
theorem test_rst_global_inst_ill_formed : (Instr.rst .global 15).wellFormed = false := by decide
theorem test_setp_dl_index_ill_formed : (Instr.setp 0 .dl 0 0).wellFormed = false := by decide
theorem test_getp_zc_index_ill_formed : (Instr.getp 0 .zc 0 11).wellFormed = false := by decide
theorem test_gets_sc_index_ill_formed : (Instr.gets 0 .sc 0 0).wellFormed = false := by decide
theorem test_coef_bq_ill_formed : (Instr.coef 0 .bq 0).wellFormed = false := by decide
theorem test_xo_odd_pair_ill_formed : (Instr.xoStep 3 0 0).wellFormed = false := by decide
theorem test_getp_zc_last_index_well_formed : (Instr.getp 0 .zc 0 10).wellFormed = true := by decide

/-! ## Decode: the words of the Example lines of the rules (R140 to R301) -/

theorem test_decode_control :
    decode 0x00000000 = .ok .nop ∧ decode 0x04008000 = .ok (.rst .lp 0) ∧
    decode 0x08108000 = .ok (.setp 4 .lp 0 0) ∧ decode 0x0C418000 = .ok (.getp 1 .dc 0 0) ∧
    decode 0x10838020 = .ok (.gets 2 .gp 0 2) ∧ decode 0x14148000 = .ok (.coef 5 .lp 0) := by
  refine ⟨?_, ?_, ?_, ?_, ?_, ?_⟩ <;> rfl

theorem test_decode_moves :
    decode 0x18403F80 = .ok (.ldhi 1 0x3F80) ∧ decode 0x1C40B852 = .ok (.orlo 1 0xB852) ∧
    decode 0x20840000 = .ok (.mov 2 1) := by
  refine ⟨?_, ?_, ?_⟩ <;> rfl

theorem test_decode_arithmetic :
    decode 0x24C48000 = .ok (.fadd 3 1 2) ∧ decode 0x28C48000 = .ok (.fsub 3 1 2) ∧
    decode 0x2CC48000 = .ok (.fmul 3 1 2) ∧ decode 0x30C04800 = .ok (.clamp 3 0 1 2) ∧
    decode 0x34C04800 = .ok (.lerp 3 0 1 2) := by
  refine ⟨?_, ?_, ?_, ?_, ?_⟩ <;> rfl

theorem test_decode_modes :
    decode 0x38C04000 = .ok (.satAtan 3 0 1) ∧ decode 0x38C04001 = .ok (.satTanh 3 0 1) ∧
    decode 0x3CC00000 = .ok (.sin2pi 3 0) ∧ decode 0x3CC00001 = .ok (.cos2pi 3 0) ∧
    decode 0x40400000 = .ok (.cvtifSym 1 0) ∧ decode 0x40400001 = .ok (.cvtifAsym 1 0) ∧
    decode 0x44040000 = .ok (.cvtfiSym 0 1) ∧ decode 0x44040001 = .ok (.cvtfiAsym 0 1) := by
  refine ⟨?_, ?_, ?_, ?_, ?_, ?_, ?_, ?_⟩ <;> rfl

theorem test_decode_filters :
    decode 0x80400000 = .ok (.bqStep 1 0 0) ∧ decode 0x84C80400 = .ok (.lpStep 3 2 1) ∧
    decode 0x88400000 = .ok (.hpStep 1 0 0) ∧ decode 0x8C400000 = .ok (.scStep 1 0 0) ∧
    decode 0x98400000 = .ok (.dcStep 1 0 0) ∧ decode 0x9C408000 = .ok (.liStep 1 0 2 0) := by
  refine ⟨?_, ?_, ?_, ?_, ?_, ?_⟩ <;> rfl

theorem test_decode_units :
    decode 0x90040000 = .ok (.dlWr 1 0) ∧ decode 0x94480000 = .ok (.dlRd 1 2 0) ∧
    decode 0xA0400000 = .ok (.dsStep 1 0 0) ∧ decode 0xA4800000 = .ok (.xoStep 2 0 0) ∧
    decode 0xA94C0400 = .ok (.mdStep 5 3 1) ∧ decode 0xACD00000 = .ok (.ncoStep 3 4 0) ∧
    decode 0xB1814000 = .ok (.zcStep 6 0 5 0) ∧ decode 0xB5400000 = .ok (.envStep 5 0 0) ∧
    decode 0xB8400000 = .ok (.gpStep 1 0 0) := by
  refine ⟨?_, ?_, ?_, ?_, ?_, ?_, ?_, ?_, ?_⟩ <;> rfl

/-- R108: all ones is an illegal opcode; R140: opcode 0 with a bit set; R106: a mode no row has; R221: rd set on DL.WR. -/
theorem test_decode_rejects :
    decode 0xFFFFFFFF = .error .illegalOpcode ∧ decode 0x48000000 = .error .illegalOpcode ∧
    decode 0xBC000000 = .error .illegalOpcode ∧ decode 0x00000001 = .error .reservedField ∧
    decode 0x38C04002 = .error .reservedField ∧ decode 0x90440000 = .error .reservedField := by
  refine ⟨?_, ?_, ?_, ?_, ?_, ?_⟩ <;> rfl

/-- The instruction a table row's word gives (R106). -/
theorem test_table_word : decodeTableWord 32 0x84C80400 = some (.lpStep 3 2 1) ∧ decodeTableWord 32 0xFFFFFFFF = none := by
  refine ⟨?_, ?_⟩ <;> rfl

/-- R107 and R112. -/
theorem test_encode :
    encode (.lpStep 3 2 1) = 0x84C80400 ∧ encode (.rst .all 0) = 0x0403C000 ∧
    (expandPseudo (.ldi 1 0x3F7EB852)).map encode = [0x18403F7E, 0x1C40B852] ∧
    (expandPseudo (.lf 1 false 1 2)).map encode = [0x18403F00] := by
  decide +kernel

/-- R111. -/
theorem test_asm :
    asmText (.setp 4 .lp 0 0) = "setp lp[0].a, d4" ∧ asmText (.gets 2 .zc 0 3) = "gets d2, zc[0].locked" ∧
    asmText (.rst .all 0) = "rst all" ∧ asmText (.zcStep 6 0 5 0) = "zc[0].step d6, d0, d5" := by
  decide +kernel

/-! ## One step of each command -/

/-- The reset state with some registers written. -/
def start (regs : List (Reg × Word)) : State := regs.foldl (fun s p => s.writeReg p.1 p.2) State.reset

/-- The state of a next outcome. -/
def nextOf : Result → Option State
  | .next t => some t
  | .fault _ => none
  | .refused _ => none

/-- Registers and STATUS after one command. -/
def look (i : Instr) (s : State) (rs : List Reg) : Option (List Word × Word) :=
  (nextOf (exec i s)).map fun t => (rs.map t.reg, t.status)

/-- The state after a list of commands. -/
def after (is : List Instr) (s : State) : Option State := nextOf (runAll is s)

theorem test_nop : nextOf (exec .nop (start [(1, 5)])) = some (start [(1, 5)]) := by decide +kernel

/-- R141 Example: rst lp[0] after a step that left y = 0.5. -/
theorem test_rst :
    (after [.lpStep 1 0 0, .rst .lp 0] (start [(0, 0x3F000000)])).map
      (fun t => (t.stateReg? .lp 0 0, t.param? .lp 0 0, t.reg 1)) = some (some 0, some 0x3F800000, 0x3F000000) := by
  decide +kernel

/-- R142 Example: 1.5 into lp[0].a stores 1.0 and sets PCLAMP. -/
theorem test_setp :
    (nextOf (exec (.setp 4 .lp 0 0) (start [(4, 0x3FC00000)]))).map (fun t => (t.param? .lp 0 0, t.status)) =
      some (some 0x3F800000, 0x00000008) := by decide +kernel

/-- R41, R42: a NaN is ignored; an integer parameter is truncated without PCLAMP (2.9 into zc[0].hang_len). -/
theorem test_setp_nan_and_integer :
    (after [.setp 1 .lp 0 0, .setp 2 .zc 0 2] (start [(1, 0x7FC00001), (2, 0x4039999A)])).map
      (fun t => (t.param? .lp 0 0, t.param? .zc 0 2, t.status)) =
      some (some 0x3F800000, some 0x40000000, 0x00000010) := by decide +kernel

/-- R143 Example. -/
theorem test_getp : look (.getp 1 .dc 0 0) State.reset [1] = some ([0x3F7EB852], 0) := by decide +kernel

/-- R144 Example. -/
theorem test_gets : look (.gets 2 .gp 0 2) State.reset [2] = some ([0x3E800000], 0) := by decide +kernel

/-- R145: a NaN cutoff only sets PNAN. -/
theorem test_coef_nan :
    (nextOf (exec (.coef 5 .hp 0) (start [(5, 0x7FC00000)]))).map (fun t => (t.param? .hp 0 0, t.status)) =
      some (some 0x35800000, 0x00000010) := by decide +kernel

/-- R145: the HP form needs no transcendental; 0.1 Hz designs at 1 Hz and sets PCLAMP. -/
theorem test_coef_hp_clamped :
    (nextOf (exec (.coef 5 .hp 0) (start [(5, 0x3DCCCCCD)]))).map (fun t => (t.param? .hp 0 0, t.pclamp)) =
      (nextOf (exec (.coef 5 .hp 0) (start [(5, 0x3F800000)]))).map (fun t => (t.param? .hp 0 0, true)) := by
  decide +kernel

theorem test_ldhi : look (.ldhi 1 0x3F80) State.reset [1] = some ([0x3F800000], 0) := by decide +kernel

/-- R162 Example. -/
theorem test_orlo : look (.orlo 1 0xB852) (start [(1, 0x3F7E0000)]) [1] = some ([0x3F7EB852], 0) := by decide +kernel

/-- R163 Example: a NaN pattern is copied unchanged, without NV. -/
theorem test_mov : look (.mov 2 1) (start [(1, 0x7FC00001)]) [2] = some ([0x7FC00001], 0) := by decide +kernel

/-- R164 Example. -/
theorem test_fadd : look (.fadd 3 1 2) (start [(1, 0x3DCCCCCD), (2, 0x3E4CCCCD)]) [3] = some ([0x3E99999A], 0) := by
  decide +kernel

/-- R164: +inf + -inf is QNAN and sets NV; here the destination is a source. -/
theorem test_fadd_inf : look (.fadd 1 1 2) (start [(1, 0x7F800000), (2, 0xFF800000)]) [1] = some ([0x7FC00000], 2) := by
  decide +kernel

/-- R165 Example. -/
theorem test_fsub : look (.fsub 3 1 2) (start [(1, 0x3F800000), (2, 0x3E800000)]) [3] = some ([0x3F400000], 0) := by
  decide +kernel

/-- R166 Example. -/
theorem test_fmul : look (.fmul 3 1 2) (start [(1, 0x3F000000), (2, 0xC0400000)]) [3] = some ([0xBFC00000], 0) := by
  decide +kernel

/-- R167 Example. -/
theorem test_clamp :
    look (.clamp 3 0 1 2) (start [(0, 0x3FC00000), (1, 0xBF800000), (2, 0x3F800000)]) [3] = some ([0x3F800000], 0) := by
  decide +kernel

/-- R167: clamp(-0.0, +0.0, hi) is -0.0. -/
theorem test_clamp_zero :
    look (.clamp 3 0 1 2) (start [(0, 0x80000000), (1, 0), (2, 0x3F800000)]) [3] = some ([0x80000000], 0) := by
  decide +kernel

/-- R168 Example. -/
theorem test_lerp :
    look (.lerp 3 0 1 2) (start [(0, 0x3F800000), (1, 0x40400000), (2, 0x3F000000)]) [3] = some ([0x40000000], 0) := by
  decide +kernel

/-- R169: k = 0 gives a zero; a NaN k sets NV. -/
theorem test_sat_atan :
    look (.satAtan 3 0 1) (start [(0, 0x3F000000), (1, 0)]) [3] = some ([0], 0) ∧
    look (.satAtan 3 0 1) (start [(0, 0x3F000000), (1, 0x7FC00000)]) [3] = some ([0x7FC00000], 2) := by decide +kernel

/-- R170, R20: odd, so a negative zero stays one. -/
theorem test_sat_tanh : look (.satTanh 3 0 1) (start [(0, 0x80000000), (1, 0x3F800000)]) [3] = some ([0x80000000], 0) := by
  decide +kernel

/-- R171 Example. -/
theorem test_sin2pi : look (.sin2pi 3 0) (start [(0, 0x3E800000)]) [3] = some ([0x3F800000], 0) := by decide +kernel

/-- R172 Example. -/
theorem test_cos2pi : look (.cos2pi 3 0) (start [(0, 0x3F000000)]) [3] = some ([0xBF800000], 0) := by decide +kernel

/-- R173: bits 31:16 are ignored; 0xC000 is -16384. -/
theorem test_cvtif_sym : look (.cvtifSym 1 0) (start [(0, 0x1234C000)]) [1] = some ([0xBF000000], 0) := by decide +kernel

/-- R174 Example. -/
theorem test_cvtif_asym : look (.cvtifAsym 1 0) (start [(0, 0x00004000)]) [1] = some ([0x3F000100], 0) := by decide +kernel

/-- R175: 1.0 gives 32767 and OCLAMP; -1.0 gives -32768 without it. -/
theorem test_cvtfi_sym :
    look (.cvtfiSym 0 1) (start [(1, 0x3F800000)]) [0] = some ([0x00007FFF], 4) ∧
    look (.cvtfiSym 0 1) (start [(1, 0xBF800000)]) [0] = some ([0xFFFF8000], 0) := by decide +kernel

/-- R176 Example, and a NaN. -/
theorem test_cvtfi_asym :
    look (.cvtfiAsym 0 1) (start [(1, 0x3F800000)]) [0] = some ([0x00007FFF], 0) ∧
    look (.cvtfiAsym 0 1) (start [(1, 0x7FC00000)]) [0] = some ([0], 2) := by decide +kernel

/-- R191 Example: a = 0.5, the second of the three steps. -/
theorem test_lp :
    (after [.setp 2 .lp 0 0, .lpStep 1 0 0, .lpStep 1 0 0] (start [(0, 0x3F800000), (2, 0x3F000000)])).map
      (fun t => (t.reg 1, t.stateReg? .lp 0 0)) = some (0x3F400000, some 0x3F400000) := by decide +kernel

/-- R192 Example: a = 0.5, second step. -/
theorem test_hp :
    (after [.setp 2 .hp 0 0, .hpStep 1 0 0, .hpStep 1 0 0] (start [(0, 0x3F800000), (2, 0x3F000000)])).map
      (fun t => t.reg 1) = some 0x3E800000 := by decide +kernel

/-- R193 Example: second step. -/
theorem test_dc :
    (after [.dcStep 1 0 0, .dcStep 1 0 0] (start [(0, 0x3F800000)])).map (fun t => t.reg 1) = some 0x3F7EB852 := by
  decide +kernel

/-- R194 Example: the first two steps. -/
theorem test_li :
    (after [.liStep 1 0 2 0, .liStep 1 3 4 0]
      (start [(0, 0x3F800000), (2, 0x3F000000), (3, 0), (4, 0x3E800000)])).map (fun t => t.reg 1) = some 0x3F400000 := by
  decide +kernel

/-- R195 Example: drive = 4, mix = 1. -/
theorem test_sc :
    (after [.setp 2 .sc 0 0, .setp 3 .sc 0 1, .scStep 1 0 0]
      (start [(0, 0x3F000000), (2, 0x40800000), (3, 0x3F800000)])).map (fun t => t.reg 1) = some 0x3F2AAAAB := by
  decide +kernel

/-- R196 Example: b0 = 0.5, b1 = 0.25, a1 = -0.5; inputs 1, 0, 0. -/
theorem test_bq :
    (after [.setp 2 .bq 0 0, .setp 3 .bq 0 1, .setp 4 .bq 0 3, .bqStep 1 0 0, .bqStep 1 5 0, .bqStep 1 5 0]
      (start [(0, 0x3F800000), (2, 0x3F000000), (3, 0x3E800000), (4, 0xBF000000), (5, 0)])).map (fun t => t.reg 1) =
      some 0x3E800000 := by decide +kernel

/-- The reset state whose delay lines hold 1.0, 2.0, 3.0, 4.0 last (R221 Example, with the capacity 8). -/
def filled : Option State :=
  after [.dlWr 1 0, .dlWr 2 0, .dlWr 3 0, .dlWr 4 0]
    (start [(1, 0x3F800000), (2, 0x40000000), (3, 0x40400000), (4, 0x40800000), (5, 0x40100000), (6, 0x7FC00000)])

theorem test_dl_wr :
    filled.map (fun t => ([0, 1, 2, 3, 4].map (t.slot? .dl 0), t.stateReg? .dl 0 0)) =
      some ([some 0x3F800000, some 0x40000000, some 0x40400000, some 0x40800000, some 0], some 4) := by decide +kernel

/-- R222 Example: delay 2.25 gives 2.75; a NaN delay reads at 1.0 and sets NV. -/
theorem test_dl_rd :
    (filled.bind fun s => look (.dlRd 7 5 0) s [7]) = some ([0x40300000], 0) ∧
    (filled.bind fun s => look (.dlRd 7 6 0) s [7]) = some ([0x40800000], 2) := by decide +kernel

/-- R241: gain 0 gives a zero. -/
theorem test_ds :
    (after [.setp 2 .ds 0 0, .dsStep 1 0 0] (start [(0, 0x3F800000), (2, 0)])).map (fun t => t.reg 1) = some 0 := by
  decide +kernel

/-- R242 Example: a = 0.25, and the rejected odd pair. -/
theorem test_xo :
    (after [.setp 4 .xo 0 0, .xoStep 2 0 0] (start [(0, 0x3F800000), (4, 0x3E800000)])).map (fun t => (t.reg 2, t.reg 3)) =
      some (0x3E800000, 0x3F400000) ∧
    look (.xoStep 3 0 0) (start [(0, 0x3F800000)]) [3] = some ([0], 0x00000601) := by decide +kernel

/-- R243 Example: base 3, swing 1, am 0.5, phase 0.25 (here with the last writes 1, 2, 3, 4: delay 3 reads 2.0). -/
theorem test_md :
    (filled.bind fun s => (after [.setp 8 .md 0 0, .setp 9 .md 0 1, .setp 10 .md 0 2, .mdStep 1 11 0]
      ((((s.writeReg 8 0x40400000).writeReg 9 0x3F800000).writeReg 10 0x3F000000).writeReg 11 0x3E800000))).map
      (fun t => t.reg 1) = some 0x3FC00000 := by decide +kernel

/-- R244 Example: fs = 8000, ft = -2000 runs the phase backwards to 0.75. -/
theorem test_nco :
    (after [.setp 5 .global 0 0, .ncoStep 3 4 0] (start [(4, 0xC4FA0000), (5, 0x45FA0000)])).map (fun t => t.reg 3) =
      some 0x3F400000 := by decide +kernel

/-- R271 Example: attack twice, then release. -/
theorem test_env :
    (after [.envStep 5 0 0, .envStep 5 0 0] (start [(0, 0xBF800000)])).map (fun t => t.reg 5) = some 0x3CF3EAB3 ∧
    (after [.envStep 5 0 0, .envStep 5 0 0, .envStep 5 1 0] (start [(0, 0xBF800000), (1, 0)])).map (fun t => t.reg 5) =
      some 0x3CF32F5F := by decide +kernel

/-- A tracker locked at 110 Hz, 49 samples after its last crossing. -/
def tracker : State :=
  { start [(0, 0x3F000000), (5, 0x3F000000)] with
    fs := 0x45FA0000, zc := [{ powerOnZc with cnt := 49, locked := true }, powerOnZc] }

/-- R272 Example, step 50: the candidate 160 is jump-limited and smoothed to 112.75; the counter restarts. -/
theorem test_zc :
    (nextOf (exec (.zcStep 6 0 5 0) tracker)).map (fun t => (t.reg 6, t.stateReg? .zc 0 0, t.stateReg? .zc 0 4)) =
      some (0x42E18000, some 0, some 2048) := by decide +kernel

/-- R301 Example: glen = 8, inputs 1, 0, 0: the third output is 0.25. -/
theorem test_gp :
    (after [.setp 2 .gp 0 1, .gpStep 1 0 0, .gpStep 1 3 0, .gpStep 1 3 0]
      (start [(0, 0x3F800000), (2, 0x41000000), (3, 0)])).map (fun t => (t.reg 1, t.stateReg? .gp 0 0)) =
      some (0x3E800000, some 3) := by decide +kernel

/-! ## The bus -/

/-- A state with one pending event. -/
def pending (e : BusEvent) : State := { start [(0, 7), (15, 9)] with bus := [e], status := 0x00000302 }

/-- The word a read returns. -/
def readOf (addr : Nat) : Option Word := (nextOf (step (pending (.read addr 4)))).map (·.readData)

/-- R87, R35, R37: the reads of the map, first and last of each row. -/
theorem test_bus_reads :
    [0x000, 0x03C, 0x040, 0x044, 0x048, 0x04C, 0xFFC].map readOf =
      [some 7, some 9, some 0, some 0x302, some 0x44535031, some 0, some 0] := by decide +kernel

/-- R35: a one in bit 0 clears ILL and CAUSE, and NV stays. -/
theorem test_bus_status_write :
    (nextOf (step { pending (.write 0x044 4 0x00000001) with status := 0x00000303 })).map (·.status) =
      some 0x00000002 := by decide +kernel

/-- R322: the first cause is kept. -/
theorem test_bus_rejections :
    (nextOf (step { pending (.write 0x040 4 0xFFFFFFFF) with status := 0 })).map (·.status) = some 0x00000101 ∧
    (nextOf (step { pending (.write 0x040 4 0xFFFFFFFF) with status := 0x00000601 })).map (·.status) =
      some 0x00000601 := by decide +kernel

/-- The host's fetch: the word placed is the command that runs. -/
theorem test_fetch_word :
    (nextOf (step (State.reset.withFetchWord 32 0x18403F80))).map (fun t => (t.reg 1, t.bus)) =
      some (0x3F800000, []) := by decide +kernel

/-! ## Hypotheses: a state and operands that meet those of each statement, clause by clause -/

/-- The reset state with one pending event. -/
def resetWith (e : BusEvent) : State := { State.reset with bus := [e] }

theorem witness_EncodeInvertsDecode : decode 0x84C80400 = .ok (.lpStep 3 2 1) := rfl

/-- The first and last word of each reserved range, a defined opcode with no row, the first and last row. -/
theorem witness_EveryWordIsOneRowOrRejected :
    (0x48000000 : Word).toNat / 2 ^ 26 = 0x12 ∧ (0x7FFFFFFF : Word).toNat / 2 ^ 26 = 0x1F ∧
    (0xBC000000 : Word).toNat / 2 ^ 26 = 0x2F ∧ (0xFFFFFFFF : Word).toNat / 2 ^ 26 = 0x3F ∧
    (0x00000001 : Word).toNat / 2 ^ 26 = 0 ∧ (∀ r ∈ opcodeTable, (0x00000001 : Word) &&& r.mask ≠ r.pattern) ∧
    (0x00000000 : Word) &&& rowNop.mask = rowNop.pattern ∧ (0xBBFC3C00 : Word) &&& rowGpStep.mask = rowGpStep.pattern := by
  decide +kernel

theorem witness_rows_are_in_the_table : rowNop ∈ opcodeTable ∧ rowGpStep ∈ opcodeTable := by simp [opcodeTable]

theorem witness_StepRunsTheCommandWritten :
    (pending (.write 0x040 4 0)).bus = .write 0x040 4 0 :: [] ∧ decode 0 = .ok .nop := ⟨rfl, rfl⟩

theorem witness_StepRejectsOtherWords :
    (pending (.write 0x040 4 0xFFFFFFFF)).bus = .write 0x040 4 0xFFFFFFFF :: [] ∧
    decode 0xFFFFFFFF = .error .illegalOpcode := ⟨rfl, rfl⟩

/-- Each row of R87, its first and last address. -/
theorem witness_HostAccessesFollowTheMap :
    (∀ a ∈ [0x000, 0x03C, 0x040, 0x044, 0x048, 0x04C, 0xFFC],
      (pending (.read a 4)).bus = .read a 4 :: [] ∧ a % 4 = 0 ∧ a < 0x1000) ∧
    (∀ n ∈ [(0 : Reg), 15], (pending (.write (4 * n.toNat) 4 1)).bus = .write (4 * n.toNat) 4 1 :: []) ∧
    (∀ a ∈ [0x048, 0x04C, 0xFFC],
      (pending (.write a 4 1)).bus = .write a 4 1 :: [] ∧ a % 4 = 0 ∧ 0x048 ≤ a ∧ a < 0x1000) := by decide +kernel

theorem witness_StatusWriteClearsOnes :
    (pending (.write 0x044 4 1)).bus = .write 0x044 4 1 :: [] ∧ (pending (.read 0x044 4)).bus = .read 0x044 4 :: [] :=
  ⟨rfl, rfl⟩

/-- The last address below the window's end, misaligned; a narrow access; the first address beyond. -/
theorem witness_BadAccessesAreNotPerformed :
    (pending (.read 0xFFF 4)).bus = .read 0xFFF 4 :: [] ∧ 0xFFF < 0x1000 ∧ 0xFFF % 4 ≠ 0 ∧
    (pending (.write 0x000 2 1)).bus = .write 0x000 2 1 :: [] ∧ (2 : Nat) ≠ 4 ∧
    (pending (.read 0x1000 4)).bus = .read 0x1000 4 :: [] ∧ 0x1000 ≤ 0x1000 := by decide +kernel

theorem witness_PowerOnValues :
    (pending .powerCycle).bus = .powerCycle :: [] ∧ 1 < Config.default.nZc ∧ Config.default.gpCap[1]? = some 16 ∧
    1 < (powerOn Config.default).count .dl := by decide +kernel

/-- One command for each cause, at the first value that fails its check. -/
theorem witness_RejectionOnlyRecordsItsCause :
    rejectCause State.reset (.coef 0 .gp 0) = some .badUnit ∧ rejectCause State.reset (.rst .bq 2) = some .badInstance ∧
    rejectCause State.reset (.getp 0 .lp 0 1) = some .badIndex ∧ rejectCause State.reset (.xoStep 1 0 0) = some .badPair := by
  decide +kernel

/-- An odd pair; a well-formed command that names a missing instance, and one that executes. -/
theorem witness_IllFormedCommandsAreRejected :
    (Instr.xoStep 1 0 0).wellFormed = false ∧ (Instr.lpStep 0 0 2).wellFormed = true ∧
    rejectCause State.reset (.lpStep 0 0 2) = some .badInstance ∧ (Instr.lpStep 0 0 1).wellFormed = true ∧
    rejectCause State.reset (.lpStep 0 0 1) = none := by decide +kernel

/-- An executed and a rejected command. -/
theorem witness_CommandsOnlySetStatusBits :
    (∃ t, exec (.lpStep 1 0 0) State.reset = .next t) ∧ (∃ t, exec (.lpStep 1 0 2) State.reset = .next t) :=
  ⟨⟨_, rfl⟩, ⟨_, rfl⟩⟩

theorem witness_StatusNeverSteersACommand : ∃ t, exec (.fadd 1 0 0) (pending .powerCycle) = .next t := ⟨_, rfl⟩

theorem witness_OnlyDestinationRegistersChange : ∃ t, exec (.xoStep 2 0 0) State.reset = .next t := ⟨_, rfl⟩

theorem witness_UnitsOwnTheirState :
    (∃ t, exec (.gpStep 1 0 0) State.reset = .next t) ∧ writesParams (.gpStep 1 0 0) = false ∧
    mayChangeState (.gpStep 1 0 0) .gp 1 = false ∧ mayChangeState (.gpStep 1 0 0) .dl 0 = false :=
  ⟨⟨_, rfl⟩, rfl, rfl, rfl⟩

/-- Two states that differ in an unwritten register, about to run a command that does not read it. -/
theorem witness_UnwrittenRegistersAreNotObserved :
    let s := { start [(0, 0x3F800000)] with bus := [.write 0x040 4 (encode (.fadd 2 0 0))] }
    let t := { s with d := s.d.set 5 0x12345678 }
    AgreeOnWritten s t ∧ s ≠ t ∧ readsUnwritten s = false := by decide +kernel

/-- The smallest and the largest configuration of R8. -/
def smallest : Config := ⟨1, 1, 1, 1, [2], 1, 1, 1, 1, 1, 1, 1, 1, [4]⟩
def largest : Config :=
  ⟨16, 16, 16, 16, List.replicate 16 (2 ^ 24), 16, 16, 16, 16, 16, 16, 16, 16, List.replicate 16 (2 ^ 24)⟩

theorem witness_PowerOnStateIsOk : smallest.Admitted ∧ largest.Admitted := by
  constructorm* _ ∧ _ <;> decide +kernel

theorem witness_StepKeepsBuffersOk :
    BuffersOk (resetWith (.write 0x040 4 0x90040000)) ∧
    ∃ t, step (resetWith (.write 0x040 4 0x90040000)) = .next t := ⟨by decide +kernel, ⟨_, rfl⟩⟩

theorem witness_StepKeepsParamsOk :
    ShapeOk (resetWith (.write 0x040 4 0x08108000)) ∧ ParamsOk (resetWith (.write 0x040 4 0x08108000)) ∧
    ∃ t, step (resetWith (.write 0x040 4 0x08108000)) = .next t := ⟨by decide +kernel, by decide +kernel, ⟨_, rfl⟩⟩

theorem witness_StepKeepsStateOk :
    StateOk (resetWith (.write 0x040 4 0xB1814000)) ∧
    ∃ t, step (resetWith (.write 0x040 4 0xB1814000)) = .next t :=
  ⟨⟨by decide +kernel, by decide +kernel, by decide +kernel, by decide +kernel, by decide +kernel, by decide +kernel,
    by decide +kernel⟩, ⟨_, rfl⟩⟩

theorem witness_NopChangesNothing :
    (0x00000001 : Word).toNat / 2 ^ 26 = 0 ∧ (0x00000001 : Word) ≠ 0 ∧
    (0x03FFFFFF : Word).toNat / 2 ^ 26 = 0 ∧ (0x03FFFFFF : Word) ≠ 0 := by decide

theorem witness_RstResetsOneInstance :
    UnitName.zc ≠ .all ∧ (1 : InstNo).toNat < State.reset.count .zc ∧
    UnitName.global ≠ .all ∧ (0 : InstNo).toNat < State.reset.count .global := by decide +kernel

theorem witness_RstAllResetsEveryInstance : 1 < State.reset.count .gp ∧ 4 < stateCount .gp := by decide +kernel

/-- The last index of a bank; a NaN and a number. -/
theorem witness_SetpWritesOneParameter :
    (1 : InstNo).toNat < State.reset.count .zc ∧ (paramTable .zc)[(10 : Idx).toNat]? = some ("drift", .unit) ∧
    F32.isNaN ((start [(1, 0x7FC00000)]).freg 1) = true ∧ F32.isNaN ((start [(1, 0x7F800000)]).freg 1) = false := by
  decide +kernel

/-- The last index of each bank of ZC; an instance of each unit. -/
theorem witness_GetpAndGetsCopyOneRegister :
    UnitName.zc ≠ .all ∧ (1 : InstNo).toNat < State.reset.count .zc ∧ (10 : Idx).toNat < paramCount .zc ∧
    (4 : Idx).toNat < stateCount .zc ∧
    State.reset.bq[1]? = some powerOnBq ∧ State.reset.lp[1]? = some powerOnLp ∧ State.reset.hp[1]? = some powerOnHp ∧
    State.reset.sc[1]? = some powerOnSc ∧ State.reset.dl[1]? = some (powerOnDl 8) ∧
    State.reset.dc[1]? = some powerOnDc ∧ State.reset.li[1]? = some powerOnLi ∧ State.reset.ds[1]? = some powerOnDs ∧
    State.reset.xo[1]? = some powerOnXo ∧ State.reset.md[1]? = some powerOnMd ∧
    State.reset.nco[1]? = some powerOnNco ∧ State.reset.zc[1]? = some powerOnZc ∧
    State.reset.env[1]? = some powerOnEnv ∧ State.reset.gp[1]? = some (powerOnGp 16) := by decide +kernel

/-- HP, whose form uses no free function; the sample rates at the two ends of FSR. -/
theorem witness_CoefDesignsOneCoefficient :
    (0 : InstNo).toNat < State.reset.count .hp ∧
    F32.isNaN ((start [(5, 0x7FC00000)]).freg 5) = true ∧ F32.isNaN ((start [(5, 0x447A0000)]).freg 5) = false ∧
    F32.isNaN (F32.div (F32.mul 0x40C90FDB 0x447A0000) (F32.add (F32.mul 0x40C90FDB 0x447A0000) State.reset.fs)) = false ∧
    inRange 0x45FA0000 0x483B8000 0x45FA0000 ∧ inRange 0x45FA0000 0x483B8000 0x483B8000 := by decide +kernel

theorem witness_ArithmeticRoundsToNearestEven :
    F32.isFinite 0x7F7FFFFF = true ∧ F32.isFinite 0x80000001 = true ∧ F32.isZero 0x80000001 = false := by decide +kernel

/-- A NaN payload, both infinities, both zeros, the greatest finite word; a NaN result of each operation and a number. -/
theorem witness_ArithmeticSpecialValues :
    F32.isNaN 0x7F800001 = true ∧ F32.isNaN (F32.add 0x7F800000 0xFF800000) = true ∧
    F32.isNaN (F32.sub 0x7F800000 0x7F800000) = true ∧ F32.isNaN (F32.mul 0 0x7F800000) = true ∧
    F32.isNaN (F32.div 0 0) = true ∧ F32.isFinite 0x7F7FFFFF = true ∧ F32.isZero 0x7F7FFFFF = false ∧
    F32.isNaN 0x7F7FFFFF = false ∧ F32.isInf 0x7F800000 = true ∧ F32.isInf 0xFF800000 = true ∧
    F32.isZero 0x80000000 = true ∧ F32.isFinite 0x80000000 = true ∧ F32.isZero 0x00000000 = true ∧
    F32.isNaN (F32.mul 0x80000001 0x00000001) = false ∧ F32.isNaN (F32.div 0x80000001 0x7F7FFFFF) = false := by
  decide +kernel

/-- A register that holds a NaN payload and one that holds a number. -/
theorem witness_ArithmeticResults :
    F32.isNaN ((start [(1, 0xFF800001)]).reg 1) = true ∧ F32.isNaN ((start [(1, 0x80000000)]).reg 1) = false := by
  decide +kernel

theorem witness_ClampLaws :
    F32.le 0xBF800000 0xBF800000 = true ∧ F32.le 0xBF800000 0x3F800000 = true ∧ F32.lt 0xBF800000 0x3F800000 = true ∧
    F32.isNaN 0x00000000 = false ∧ F32.isNaN 0x7FC00000 = true := by decide +kernel

/-- Both zeros, a NaN, and the greatest exponent of a finite word. -/
theorem witness_ComparisonsAreThoseOfTheValues :
    F32.isFinite 0x80000000 = true ∧ F32.isFinite 0x00000000 = true ∧ F32.isNaN 0x7FC00000 = true ∧
    ((0x7F7FFFFF : Word).extractLsb' 23 8).toNat < 255 ∧ ((0x00000001 : Word).extractLsb' 23 8).toNat = 0 := by
  decide +kernel

/-- A small negative word, whose fraction rounds to 1.0; the greatest word; the specials; the ends of f32(n). -/
theorem witness_IntegralPartsOfFiniteWords :
    F32.isFinite 0xB0800000 = true ∧ F32.isFinite 0x7F7FFFFF = true ∧ F32.isInf 0xFF800000 = true ∧
    F32.isNaN 0x80000000 = false ∧ F32.isNaN 0xFFC00001 = true ∧
    (-2 ^ 24 ≤ (-16777216 : Int) ∧ (-16777216 : Int) ≤ 2 ^ 24) ∧ -2 ^ 24 ≤ (16777216 : Int) ∧
    (16777216 : Int) ≤ 2 ^ 24 := by
  decide +kernel

theorem witness_TranscendentalsMeetTheirProperties :
    F32.isNaN 0x7FC00000 = true ∧ F32.le 0xFF800000 0x7F800000 = true ∧ F32.isNaN 0x7F800000 = false ∧
    F32.isInf 0x7F800000 = true ∧ F32.isFinite 0x3E800000 = true ∧ value 0x3E800000 = ((1 : Int) : ℚ) / 4 ∧
    value 0x80000000 = ((0 : Int) : ℚ) / 4 ∧ value 0xBE800000 = ((-1 : Int) : ℚ) / 4 := by decide +kernel

theorem witness_CvtfiResults :
    F32.isNaN ((start [(1, 0x7FC00000)]).freg 1) = true ∧ F32.isNaN ((start [(1, 0x80000000)]).freg 1) = false := by
  decide +kernel

theorem witness_CvtfiSymIsExact :
    F32.isFinite ((start [(1, 0xBF800001)]).freg 1) = true ∧ ∃ t, exec (.cvtfiSym 0 1) (start [(1, 0xBF800001)]) = .next t :=
  ⟨by decide +kernel, ⟨_, rfl⟩⟩

theorem witness_SamplesSurviveTheRoundTrip :
    (nextOf (exec (.cvtfiSym 0 1) (start [(1, 0x7F800000)]))).isSome = true ∧
    (nextOf (exec (.cvtfiAsym 0 1) (start [(1, 0xFF800000)]))).isSome = true := by decide +kernel

theorem witness_FirstOrderStepResults :
    State.reset.lp[(1 : InstNo).toNat]? = some powerOnLp ∧ State.reset.hp[(1 : InstNo).toNat]? = some powerOnHp ∧
    State.reset.dc[(1 : InstNo).toNat]? = some powerOnDc ∧ State.reset.li[(1 : InstNo).toNat]? = some powerOnLi := by
  decide +kernel

theorem witness_ScAndBqStepResults :
    State.reset.sc[(1 : InstNo).toNat]? = some powerOnSc ∧ State.reset.bq[(1 : InstNo).toNat]? = some powerOnBq := by
  decide +kernel

/-- A ring of the least capacity; BufRead at both ends of its range. -/
theorem witness_BufferIsADelayLine :
    RingOk (powerOnRing 2) ∧ 1 ≤ 1 ∧ 1 < (powerOnRing 2).cap ∧ 2 ≤ (powerOnRing 2).cap := by decide +kernel

theorem witness_EqualContentsAreEqualData :
    (Memory.empty.write 3 0x3F800000).wf = true ∧ ((Memory.empty.write 4 0x40000000).write 3 0x3F800000).wf = true ∧
    ∀ a, (Memory.empty.write 3 0x3F800000).read a =
      ((((Memory.empty.write 4 0x40000000).write 3 0x3F800000).write 4 0x00000000)).read a :=
  ⟨by decide +kernel, by decide +kernel, fun _ => rfl⟩

theorem witness_FracReadBlendsTwoSamples :
    RingOk (powerOnRing 2) ∧ 2 ≤ (powerOnRing 2).cap ∧ (powerOnRing 2).cap ≤ 2 ^ 24 ∧
    RingOk (powerOnRing (2 ^ 24)) ∧ (powerOnRing (2 ^ 24)).cap ≤ 2 ^ 24 := by decide +kernel

theorem witness_DelayLineResults :
    State.reset.dl[(1 : InstNo).toNat]? = some (powerOnDl 8) ∧ RingOk (powerOnDl 8).ring := by decide +kernel

/-- The least and the greatest whole delay of a line of capacity 8. -/
theorem witness_WholeDelaysReadSamplesExactly :
    let s := start [(1, 0x3F800000), (2, 0x40E00000)]
    s.dl[(0 : InstNo).toNat]? = some (powerOnDl 8) ∧ RingOk (powerOnDl 8).ring ∧ (powerOnDl 8).ring.cap ≤ 2 ^ 24 ∧
    7 ≤ (powerOnDl 8).ring.cap - 1 ∧ s.freg 1 = F32.ofInt (1 : Nat) ∧ s.freg 2 = F32.ofInt (7 : Nat) ∧
    F32.isFinite (F32.sub (bufRead (powerOnDl 8).ring 2) (bufRead (powerOnDl 8).ring 1)) = true ∧
    F32.isFinite (F32.sub (bufRead (powerOnDl 8).ring 8) (bufRead (powerOnDl 8).ring 7)) = true ∧
    (nextOf (exec (.dlRd 3 1 0) s)).isSome = true ∧ (nextOf (exec (.dlRd 3 2 0) s)).isSome = true := by decide +kernel

theorem witness_DsAndXoStepResults :
    State.reset.ds[(1 : InstNo).toNat]? = some powerOnDs ∧ State.reset.xo[(1 : InstNo).toNat]? = some powerOnXo ∧
    (14 : Reg).toNat % 2 = 0 := by decide +kernel

theorem witness_MdStepResults :
    State.reset.md[(1 : InstNo).toNat]? = some powerOnMd ∧
    State.reset.dl[(F32.toInt powerOnMd.dlsel).toNat]? = some (powerOnDl 8) ∧ ShapeOk State.reset ∧
    ParamsOk State.reset := by decide +kernel

theorem witness_ZeroSwingIsAStaticDelay :
    State.reset.md[(0 : InstNo).toNat]? = some powerOnMd ∧
    State.reset.dl[(F32.toInt powerOnMd.dlsel).toNat]? = some (powerOnDl 8) ∧
    inRange 0x3F800000 0x7F7FFFFF powerOnMd.base ∧ F32.isZero powerOnMd.swing = true ∧
    F32.isFinite (F32.add (State.reset.freg 3) powerOnMd.off) = true ∧ F32.isZero powerOnMd.am = true ∧
    (nextOf (exec (.mdStep 1 3 0) State.reset)).isSome = true := by decide +kernel

theorem witness_NcoAndEnvStepResults :
    State.reset.nco[(1 : InstNo).toNat]? = some powerOnNco ∧ State.reset.env[(1 : InstNo).toNat]? = some powerOnEnv := by
  decide +kernel

/-- A negative frequency at the least sample rate. -/
theorem witness_NcoPhaseStaysInTurn :
    let s := { start [(4, 0xC4FA0000)] with fs := 0x45FA0000 }
    s.nco[(0 : InstNo).toNat]? = some powerOnNco ∧ inRange 0x45FA0000 0x483B8000 s.fs ∧ inTurn powerOnNco.ph ∧
    (nextOf (exec (.ncoStep 3 4 0) s)).any (fun t => (t.nco[0]?).any fun u => F32.isFinite u.f) = true := by decide +kernel

/-- An attack and a release. -/
theorem witness_EnvelopeMovesTowardTheMagnitude :
    let s := start [(0, 0xBF800000), (1, 0x00000000)]
    s.env[(0 : InstNo).toNat]? = some powerOnEnv ∧ inRange 0x00000000 0x3F800000 powerOnEnv.att ∧
    inRange 0x00000000 0x3F800000 powerOnEnv.rel ∧ F32.isFinite (s.freg 0) = true ∧ F32.isFinite powerOnEnv.e = true ∧
    F32.le 0x00000000 powerOnEnv.e = true ∧ F32.lt powerOnEnv.e (F32.abs (s.freg 0)) = true ∧
    F32.lt powerOnEnv.e (F32.abs (s.freg 1)) = false ∧ (nextOf (exec (.envStep 5 0 0) s)).isSome = true := by
  decide +kernel

theorem witness_ZcStepResults :
    tracker.zc[(0 : InstNo).toNat]? = some { powerOnZc with cnt := 49, locked := true } := by decide +kernel

/-- The levels of R273's own example, hang_len 2. -/
theorem witness_GateHoldsForItsHangTime :
    let z := { powerOnZc with hangLen := 0x40000000 }
    let later := [((0 : Word), (0x3BA3D70A : Word)), (0, 0x3C75C28F), (0, 0x3BA3D70A), (0, 0x3BA3D70A)]
    F32.lt z.thOn 0x3F000000 = true ∧ (later.all fun p => !F32.lt z.thOn p.2) = true ∧
    later.countP (fun p => F32.lt p.2 z.thOff) = 3 := by
  decide +kernel

/-- A locked step and a drifting one. -/
theorem witness_TrackedFrequencyStaysInRange :
    ShapeOk tracker ∧ ParamsOk tracker ∧ TrackersOk tracker ∧
    tracker.zc[(1 : InstNo).toNat]? = some powerOnZc ∧ F32.le powerOnZc.fMin powerOnZc.fMax = true ∧
    (nextOf (exec (.zcStep 6 0 5 0) tracker)).any (fun t => (t.zc[0]?).isSome) = true ∧
    (nextOf (exec (.zcStep 6 0 1 1) tracker)).any (fun t => (t.zc[1]?).any fun u => !u.locked) = true := by decide +kernel

theorem witness_GpStepResults :
    State.reset.gp[(1 : InstNo).toNat]? = some (powerOnGp 16) ∧ RingOk (powerOnGp 16).ring := by decide +kernel

/-- The power-on state. -/
theorem witness_FiltersStaySilent :
    ShapeOk State.reset ∧ ParamsOk State.reset ∧ F32.isZero (State.reset.reg 0) = true ∧
    F32.isFinite (State.reset.reg 1) = true ∧
    [Instr.bqStep 2 0 0, .lpStep 2 0 0, .hpStep 2 0 0, .scStep 2 0 0, .dcStep 2 0 0, .liStep 2 0 1 0, .dsStep 2 0 0,
      .xoStep 2 0 0, .envStep 2 0 0, .dlRd 2 0 0, .dlWr 0 0, .gpStep 2 0 0, .mdStep 2 0 0].all
        (fun i => (nextOf (exec i State.reset)).isSome) = true ∧
    F32.isZero powerOnBq.x1 = true ∧ F32.isZero powerOnDs.lp = true ∧ F32.isZero powerOnEnv.e = true ∧
    F32.isZero powerOnLi.prev = true ∧ RingOk (powerOnDl 8).ring ∧ RingOk (powerOnGp 16).ring ∧
    inTurn (powerOnGp 16).p0 ∧ inTurn (powerOnGp 16).p3 ∧
    F32.isFinite (F32.add (State.reset.reg 0) powerOnMd.off) = true := by decide +kernel

/-- A legal MD instance and a finite phase whose sum with off overflows (log 23). -/
theorem witness_FiltersStaySilent_overflow :
    let u := { powerOnMd with off := 0x7F7FFFFF }
    let s := { start [(3, 0x7F7FFFFF)] with md := [u, u] }
    ShapeOk s ∧ ParamsOk s ∧ s.md[(1 : InstNo).toNat]? = some u ∧ s.dl[(F32.toInt u.dlsel).toNat]? = some (powerOnDl 8) ∧
    F32.isFinite (s.reg 3) = true ∧ F32.isFinite (F32.add (s.reg 3) u.off) = false ∧
    (nextOf (exec (.mdStep 1 3 1) s)).map (fun t => t.reg 1) = some 0x7FC00000 := by decide +kernel

theorem witness_RingSilent : RingSilent (powerOnDl 8).ring ∧ RingSilent (powerOnGp 16).ring :=
  ⟨fun _ => rfl, fun _ => rfl⟩

end Sys2Proof.Tests
end

/-! SUPPORT. The exact values of binary32 words: their order, the rounding to the nearest word (00_scope.md R14), and the
four operations on finite words. -/

namespace Sys2Proof.Machine.F32

/-! ## Values: sign, magnitude, order -/

theorem value_of_sign_false {x : Word} (h : sign x = false) : value x = (units x : ℚ) / 2 ^ 149 := by
  simp [value, signedUnits, h]

theorem value_of_sign_true {x : Word} (h : sign x = true) : value x = -((units x : ℚ) / 2 ^ 149) := by
  simp [value, signedUnits, h, neg_div]

theorem abs_value (x : Word) : |value x| = (units x : ℚ) / 2 ^ 149 := by
  have hu : (0 : ℚ) ≤ (units x : ℚ) / 2 ^ 149 := by positivity
  cases h : sign x
  · rw [value_of_sign_false h, abs_of_nonneg hu]
  · rw [value_of_sign_true h, abs_neg, abs_of_nonneg hu]

/-- The order of the words is that of their exact values: the magnitudes rise with their bits. -/
theorem key_lt_key_iff {x y : Word} : key x < key y ↔ signedUnits x < signedUnits y := by
  have hlt (a b : Nat) : magUnits a < magUnits b ↔ a < b := magUnits_strictMono.lt_iff_lt
  have hxy := hlt (magBits x) (magBits y)
  have hyx := hlt (magBits y) (magBits x)
  have hx := hlt 0 (magBits x)
  have hy := hlt 0 (magBits y)
  rw [magUnits_zero] at hx hy
  unfold key signedUnits units
  cases sign x <;> cases sign y <;> simp <;> omega

theorem value_lt_iff {x y : Word} : value x < value y ↔ key x < key y := by
  rw [key_lt_key_iff, value, value, div_lt_div_iff_of_pos_right (by positivity), Int.cast_lt]

theorem value_le_iff {x y : Word} : value x ≤ value y ↔ key x ≤ key y := by
  rw [← not_lt, ← not_lt, value_lt_iff]

theorem value_eq_iff {x y : Word} : value x = value y ↔ key x = key y := by
  rw [le_antisymm_iff, le_antisymm_iff, value_le_iff, value_le_iff]

theorem lt_iff_value {x y : Word} (hx : isNaN x = false) (hy : isNaN y = false) :
    lt x y = true ↔ value x < value y := by
  rw [lt_iff, value_lt_iff]; simp [hx, hy]

theorem le_iff_value {x y : Word} (hx : isNaN x = false) (hy : isNaN y = false) :
    le x y = true ↔ value x ≤ value y := by
  rw [le_iff, value_le_iff]; simp [hx, hy]

theorem eq_iff_value {x y : Word} (hx : isNaN x = false) (hy : isNaN y = false) :
    eq x y = true ↔ value x = value y := by
  rw [eq_iff, value_eq_iff]; simp [hx, hy]

theorem isZero_iff_value {x : Word} : isZero x = true ↔ value x = 0 := by
  rw [← abs_eq_zero, abs_value, isZero_iff, div_eq_zero_iff, Nat.cast_eq_zero, units, magUnits_eq_zero]
  simp

theorem magUnits_infBits : magUnits infBits = 2 ^ 24 * 2 ^ 253 := by decide +kernel

theorem magUnits_maxF : magUnits (infBits - 1) = (2 ^ 24 - 1) * 2 ^ 253 := by decide +kernel

/-- MAXF is the largest finite magnitude. -/
theorem isFinite_iff_abs_value {x : Word} : isFinite x = true ↔ |value x| ≤ 2 ^ 128 - 2 ^ 104 := by
  have hmax : ((magUnits (infBits - 1) : ℕ) : ℚ) / 2 ^ 149 = 2 ^ 128 - 2 ^ 104 := by
    rw [magUnits_maxF]; norm_num
  rw [abs_value, ← hmax, div_le_div_iff_of_pos_right (by positivity), Nat.cast_le, units,
    magUnits_strictMono.le_iff_le, isFinite_iff]
  have : 0 < infBits := by decide
  omega

theorem abs_value_of_isInf {x : Word} (h : isInf x = true) : |value x| = 2 ^ 128 := by
  rw [abs_value, units, isInf_iff.1 h, magUnits_infBits]; norm_num

theorem value_nonneg_of_sign_false {x : Word} (h : sign x = false) : 0 ≤ value x := by
  rw [value_of_sign_false h]; positivity

theorem value_nonpos_of_sign_true {x : Word} (h : sign x = true) : value x ≤ 0 := by
  rw [value_of_sign_true h, neg_nonpos]; positivity

theorem sign_of_value_pos {x : Word} (h : 0 < value x) : sign x = false := by
  by_contra hs
  exact absurd (value_nonpos_of_sign_true (Bool.not_eq_false _ ▸ hs)) (not_le.2 h)

@[simp] theorem value_zero : value zero = 0 := by rw [← isZero_iff_value]; decide

theorem value_one : value one = 1 := by
  rw [value, show signedUnits one = 2 ^ 149 by decide +kernel]; norm_num

/-! ## Rounding gives the nearest binary32, ties to even (R14) -/

/-- The rounded magnitude before it is limited to the infinity's. -/
def roundBits (n d : Nat) : Nat :=
  (Nat.log2 (n / d) - 23) * 2 ^ 23 + significand n d (Nat.log2 (n / d) - 23)

theorem roundMag_eq_min (n d : Nat) : roundMag n d = min (roundBits n d) infBits := roundMag_eq n d

/-- The magnitude of a significand of at most 24 bits (or the next power of two) on the grid of step `2 ^ k`. -/
theorem magUnits_grid {k m : Nat} (h : k = 0 ∨ 2 ^ 23 ≤ m) (hm : m ≤ 2 ^ 24) :
    magUnits (k * 2 ^ 23 + m) = m * 2 ^ k := by
  rcases hm.lt_or_eq with hm | rfl
  · rcases h with rfl | h
    · simpa using magUnits_small hm
    · exact magUnits_normal h hm
  · rw [show k * 2 ^ 23 + 2 ^ 24 = (k + 1) * 2 ^ 23 + 2 ^ 23 by omega, magUnits_normal le_rfl (by norm_num)]
    ring

/-- The significand is the lower or the upper neighbour of the quotient, the nearer one, the even one in a tie. -/
theorem significand_cases (n d k : Nat) :
    (significand n d k = n / (d * 2 ^ k) ∧ 2 * (n % (d * 2 ^ k)) ≤ d * 2 ^ k ∧
      (2 * (n % (d * 2 ^ k)) = d * 2 ^ k → n / (d * 2 ^ k) % 2 = 0)) ∨
    (significand n d k = n / (d * 2 ^ k) + 1 ∧ d * 2 ^ k ≤ 2 * (n % (d * 2 ^ k)) ∧
      (2 * (n % (d * 2 ^ k)) = d * 2 ^ k → n / (d * 2 ^ k) % 2 = 1)) := by
  unfold significand
  split <;> omega

/-- `a` is no farther from `w` than from `v`, and a tie with another value is decided for `w` by `even`. -/
abbrev Nearer (a v w : ℚ) (even : Prop) : Prop := |a - w| ≤ |a - v| ∧ (v ≠ w → |a - v| = |a - w| → even)

theorem nearer_lower {a v l u : ℚ} {even : Prop} (hl : l ≤ a) (hv : v ≤ l ∨ u ≤ v) (h : a - l ≤ u - a)
    (he : a - l = u - a → even) : Nearer a v l even := by
  have h1 : |a - l| = a - l := abs_of_nonneg (by linarith)
  rcases hv with hv | hv
  · have h2 : |a - v| = a - v := abs_of_nonneg (by linarith)
    exact ⟨by linarith, fun hne heq => absurd (by linarith) hne⟩
  · have h2 : |a - v| = v - a := by rw [abs_sub_comm]; exact abs_of_nonneg (by linarith)
    exact ⟨by linarith, fun _ heq => he (by linarith)⟩

theorem nearer_upper {a v l u : ℚ} {even : Prop} (hu : a ≤ u) (hv : v ≤ l ∨ u ≤ v) (h : u - a ≤ a - l)
    (he : a - l = u - a → even) : Nearer a v u even := by
  have h1 : |a - u| = u - a := by rw [abs_sub_comm]; exact abs_of_nonneg (by linarith)
  rcases hv with hv | hv
  · have h2 : |a - v| = a - v := abs_of_nonneg (by linarith)
    exact ⟨by linarith, fun _ heq => he (by linarith)⟩
  · have h2 : |a - v| = v - a := by rw [abs_sub_comm]; exact abs_of_nonneg (by linarith)
    exact ⟨by linarith, fun hne heq => absurd (by linarith) hne⟩

/-- No magnitude is nearer to `n / d` than the rounded one, the exponent unbounded. The two neighbours of `n / d` on the
grid of its own exponent are consecutive magnitudes, so every other magnitude lies beyond one of them. -/
theorem roundBits_nearest {n d : Nat} (hd : 0 < d) (m : Nat) :
    Nearer ((n : ℚ) / d) (magUnits m) (magUnits (roundBits n d)) (roundBits n d % 2 = 0) := by
  have hlo : n / (d * 2 ^ (Nat.log2 (n / d) - 23)) < 2 ^ 24 := quotient_lt
  have hlo' : Nat.log2 (n / d) - 23 = 0 ∨ 2 ^ 23 ≤ n / (d * 2 ^ (Nat.log2 (n / d) - 23)) := by
    rcases Nat.eq_zero_or_pos (Nat.log2 (n / d) - 23) with h | h
    · exact .inl h
    · exact .inr (quotient_ge h)
  have hcases := significand_cases n d (Nat.log2 (n / d) - 23)
  unfold roundBits
  generalize Nat.log2 (n / d) - 23 = k at *
  have hp : 0 < d * 2 ^ k := Nat.mul_pos hd (Nat.two_pow_pos k)
  have hdm := Nat.div_add_mod n (d * 2 ^ k)
  have hr := Nat.mod_lt n hp
  generalize n / (d * 2 ^ k) = q at *
  generalize n % (d * 2 ^ k) = r at *
  have hdq : (0 : ℚ) < d := by exact_mod_cast hd
  have hexact : (n : ℚ) / d = q * 2 ^ k + r / d := by
    rw [← hdm]; push_cast; field_simp
  have hrem : (0 : ℚ) ≤ r / d := by positivity
  have hrem' : (r : ℚ) / d < 2 ^ k := by
    rw [div_lt_iff₀ hdq, mul_comm]; exact_mod_cast hr
  have hlower : (magUnits (k * 2 ^ 23 + q) : ℚ) = q * 2 ^ k := by
    exact_mod_cast magUnits_grid hlo' hlo.le
  have hupper : (magUnits (k * 2 ^ 23 + (q + 1)) : ℚ) = (q + 1) * 2 ^ k := by
    exact_mod_cast magUnits_grid (by omega) (by omega)
  have hbeyond : (magUnits m : ℚ) ≤ q * 2 ^ k ∨ ((q : ℚ) + 1) * 2 ^ k ≤ magUnits m := by
    rw [← hlower, ← hupper, Nat.cast_le, Nat.cast_le, magUnits_strictMono.le_iff_le, magUnits_strictMono.le_iff_le]
    omega
  have hhalf : (2 * (r / d) : ℚ) = 2 ^ k ↔ 2 * r = d * 2 ^ k := by
    rw [← mul_div_assoc, div_eq_iff hdq.ne', mul_comm ((2 : ℚ) ^ k)]; exact_mod_cast Iff.rfl
  rcases hcases with ⟨hs, hle, heven⟩ | ⟨hs, hle, hodd⟩
  · have hle' : (2 * (r / d) : ℚ) ≤ 2 ^ k := by
      rw [← mul_div_assoc, div_le_iff₀ hdq, mul_comm ((2 : ℚ) ^ k)]; exact_mod_cast hle
    rw [hs, hlower, hexact]
    refine nearer_lower (by linarith) hbeyond (by linarith) fun h => ?_
    have := heven (hhalf.1 (by linarith))
    omega
  · have hle' : (2 : ℚ) ^ k ≤ 2 * (r / d) := by
      rw [← mul_div_assoc, le_div_iff₀ hdq, mul_comm ((2 : ℚ) ^ k)]; exact_mod_cast hle
    rw [hs, hupper, hexact]
    refine nearer_upper (by linarith) hbeyond (by linarith) fun h => ?_
    have := hodd (hhalf.1 (by linarith))
    omega

/-- Rounding overflows from half a place above MAXF on: there the infinity's bits are nearer, or are the even ones. -/
theorem roundBits_lt_infBits_iff {n d : Nat} (hd : 0 < d) :
    roundBits n d < infBits ↔ (n : ℚ) / d < (2 ^ 24 - 1 / 2) * 2 ^ 253 := by
  have hmax : (magUnits (infBits - 1) : ℚ) = (2 ^ 24 - 1) * 2 ^ 253 := by rw [magUnits_maxF]; norm_num
  have hinf : (magUnits infBits : ℚ) = 2 ^ 24 * 2 ^ 253 := by rw [magUnits_infBits]; norm_num
  obtain ⟨hnear, -⟩ := roundBits_nearest (n := n) hd (infBits - 1)
  obtain ⟨hnear', htie⟩ := roundBits_nearest (n := n) hd infBits
  have hle : (magUnits (roundBits n d) : ℚ) ≤ magUnits (infBits - 1) ↔ roundBits n d ≤ infBits - 1 := by
    rw [Nat.cast_le, magUnits_strictMono.le_iff_le]
  have hge : (magUnits infBits : ℚ) ≤ magUnits (roundBits n d) ↔ infBits ≤ roundBits n d := by
    rw [Nat.cast_le, magUnits_strictMono.le_iff_le]
  rw [hmax] at hnear hle
  rw [hinf] at hnear' htie hge
  have hodd : infBits % 2 = 0 ∧ 0 < infBits := by decide
  constructor
  · intro h
    have hR := hle.2 (by omega)
    by_contra ha
    have h1 := le_abs_self ((n : ℚ) / d - magUnits (roundBits n d))
    rcases abs_cases ((n : ℚ) / d - 2 ^ 24 * 2 ^ 253) with ⟨h2, -⟩ | ⟨h2, -⟩
    · linarith
    · have hmid : (n : ℚ) / d = (2 ^ 24 - 1 / 2) * 2 ^ 253 := by linarith
      have hRmax : (magUnits (roundBits n d) : ℚ) = magUnits (infBits - 1) := by rw [hmax]; linarith
      have hbits : roundBits n d = infBits - 1 := magUnits_strictMono.injective (by exact_mod_cast hRmax)
      have := htie (by linarith) (by linarith)
      omega
  · intro ha
    by_contra h
    have hR := hge.2 (by omega)
    have h1 := neg_abs_le ((n : ℚ) / d - magUnits (roundBits n d))
    rcases abs_cases ((n : ℚ) / d - (2 ^ 24 - 1) * 2 ^ 253) with ⟨h2, -⟩ | ⟨h2, -⟩ <;> linarith

/-- The value that the sign `b` and `n / d` units stand for. -/
def signedValue (b : Bool) (n d : Nat) : ℚ := if b then -((n : ℚ) / d / 2 ^ 149) else (n : ℚ) / d / 2 ^ 149

theorem abs_signedValue (b : Bool) (n d : Nat) : |signedValue b n d| = (n : ℚ) / d / 2 ^ 149 := by
  have h : (0 : ℚ) ≤ (n : ℚ) / d / 2 ^ 149 := by positivity
  cases b <;> simp only [signedValue, if_true, if_false, Bool.false_eq_true, abs_neg, abs_of_nonneg h]

theorem value_eq_signedValue (x : Word) : value x = signedValue (sign x) (units x) 1 := by
  cases h : sign x
  · simp [value_of_sign_false h, signedValue]
  · simp [value_of_sign_true h, signedValue]

/-- Two values of one sign are as far apart as their magnitudes. -/
theorem abs_signedValue_sub_same (b : Bool) (n d m : Nat) :
    |signedValue b n d - signedValue b m 1| = |(n : ℚ) / d - m| / 2 ^ 149 := by
  have h : |(n : ℚ) / d - m| / 2 ^ 149 = |((n : ℚ) / d - m) / 2 ^ 149| := by
    rw [abs_div, abs_of_pos (by positivity : (0 : ℚ) < 2 ^ 149)]
  cases b <;> simp only [signedValue, if_true, if_false, Bool.false_eq_true, h]
  · congr 1; push_cast; ring
  · rw [← abs_neg]; congr 1; push_cast; ring

/-- Two values of different signs are as far apart as the sum of their magnitudes. -/
theorem abs_signedValue_sub_diff (b : Bool) (n d m : Nat) :
    |signedValue b n d - signedValue (!b) m 1| = ((n : ℚ) / d + m) / 2 ^ 149 := by
  have h : (0 : ℚ) ≤ ((n : ℚ) / d + m) / 2 ^ 149 := by positivity
  rw [← abs_of_nonneg h]
  cases b <;> simp only [signedValue, if_true, if_false, Bool.false_eq_true, Bool.not_true, Bool.not_false]
  · congr 1; push_cast; ring
  · rw [← abs_neg]; congr 1; push_cast; ring

/-- No word is nearer to the exact value than its rounded magnitude with its own sign: a word of the other sign is at
least as far from it as zero. -/
theorem signedValue_nearest (b : Bool) {n d : Nat} (hd : 0 < d) (v : Word) :
    Nearer (signedValue b n d) (value v) (signedValue b (magUnits (roundBits n d)) 1) (roundBits n d % 2 = 0) := by
  have hpos : (0 : ℚ) < 2 ^ 149 := by positivity
  unfold Nearer
  rw [abs_signedValue_sub_same, value_eq_signedValue v]
  rcases Bool.eq_or_eq_not (sign v) b with hs | hs
  · obtain ⟨hnear, htie⟩ := roundBits_nearest (n := n) hd (magBits v)
    rw [hs, abs_signedValue_sub_same, div_le_div_iff_of_pos_right hpos, div_left_inj' hpos.ne']
    refine ⟨hnear, fun hne => htie fun h => hne ?_⟩
    rw [units, Nat.cast_injective h]
  · obtain ⟨hnear, htie⟩ := roundBits_nearest (n := n) hd 0
    have hn : (0 : ℚ) ≤ (n : ℚ) / d := by positivity
    have hu : (0 : ℚ) ≤ units v := by positivity
    rw [magUnits_zero, Nat.cast_zero, sub_zero, abs_of_nonneg hn] at hnear htie
    rw [hs, abs_signedValue_sub_diff, div_le_div_iff_of_pos_right hpos, div_left_inj' hpos.ne']
    refine ⟨by linarith, fun hne heq => htie (fun h => hne ?_) (by linarith)⟩
    have hv : units v = 0 := by rw [← Nat.cast_eq_zero (R := ℚ)]; linarith
    have hR : magUnits (roundBits n d) = 0 := by rw [← Nat.cast_eq_zero (R := ℚ), ← h]
    rw [hv, hR]
    cases b <;> simp [signedValue]

/-- R14: `round` gives the binary32 nearest to the exact value, ties to even. -/
theorem nearestEven_round (b : Bool) {n d : Nat} (hd : 0 < d) : NearestEven (signedValue b n d) (round b n d) := by
  have hlimit : |signedValue b n d| < 2 ^ 128 - 2 ^ 103 ↔ roundBits n d < infBits := by
    rw [abs_signedValue, roundBits_lt_infBits_iff hd, div_lt_iff₀ (by positivity)]
    norm_num
  unfold NearestEven
  split
  · rename_i hlt
    have hbits := hlimit.1 hlt
    have hmag : magBits (round b n d) = roundBits n d := by
      rw [magBits_round, roundMag_eq_min, min_eq_left hbits.le]
    rw [value_eq_signedValue, sign_round, units, isFinite_iff, hmag]
    exact ⟨hbits, fun v _ => signedValue_nearest b hd v⟩
  · rename_i hge
    have hbits : infBits ≤ roundBits n d := Nat.le_of_not_lt fun h => hge (hlimit.2 h)
    refine ⟨by rw [isInf_iff, magBits_round, roundMag_eq_min, min_eq_right hbits], ?_⟩
    have hpos : 0 < |signedValue b n d| := lt_of_lt_of_le (by norm_num) (not_lt.1 hge)
    rw [abs_signedValue] at hpos
    rw [sign_round]
    cases b
    · simpa [signedValue] using hpos.le
    · simpa [signedValue] using hpos

/-! ## The four operations on finite words (R14, R164 to R166) -/

theorem nearestEven_of_value_eq {q : ℚ} {w : Word} (hw : isFinite w = true) (h : value w = q) : NearestEven q w := by
  subst h
  unfold NearestEven
  rw [if_pos ((isFinite_iff_abs_value.1 hw).trans_lt (by norm_num))]
  refine ⟨hw, fun v _ => ⟨by simp, fun hne heq => absurd ?_ hne⟩⟩
  rw [sub_self, abs_zero, abs_eq_zero, sub_eq_zero] at heq
  exact heq.symm

theorem magBits_xor_sign (x : Word) : magBits (x ^^^ 0x80000000) = magBits x := by
  have h31 (i : Nat) (hi : i < 31) : (0x80000000 : Word).getLsbD i = false := by
    interval_cases i <;> rfl
  unfold magBits
  apply Nat.eq_of_testBit_eq
  intro i
  rw [Nat.testBit_mod_two_pow, Nat.testBit_mod_two_pow, BitVec.testBit_toNat, BitVec.testBit_toNat, BitVec.getLsbD_xor]
  by_cases hi : i < 31
  · rw [h31 i hi, Bool.xor_false]
  · rw [decide_eq_false hi, Bool.false_and, Bool.false_and]

theorem sign_xor_sign (x : Word) : sign (x ^^^ 0x80000000) = !sign x := by
  unfold sign
  rw [BitVec.msb_xor, show (0x80000000 : Word).msb = true from rfl, Bool.xor_true]

theorem neg_of_not_isNaN {x : Word} (h : isNaN x = false) : neg x = x ^^^ 0x80000000 := by simp [neg, h]

theorem neg_of_isNaN {x : Word} (h : isNaN x = true) : neg x = qnan := by simp [neg, h]

/-- R14: negation of a word that is no NaN changes its sign alone. -/
theorem sign_neg {x : Word} (h : isNaN x = false) : sign (neg x) = !sign x := by
  rw [neg_of_not_isNaN h, sign_xor_sign]

@[simp] theorem isNaN_neg (x : Word) : isNaN (neg x) = isNaN x := by
  cases h : isNaN x
  · rw [neg_of_not_isNaN h, isNaN_false_iff, magBits_xor_sign]; exact isNaN_false_iff.1 h
  · simp [neg_of_isNaN h]

theorem magBits_neg {x : Word} (h : isNaN x = false) : magBits (neg x) = magBits x := by
  rw [neg_of_not_isNaN h, magBits_xor_sign]

theorem value_neg {x : Word} (h : isNaN x = false) : value (neg x) = -value x := by
  rw [value_eq_signedValue, value_eq_signedValue, sign_neg h, units, magBits_neg h, ← units]
  cases sign x <;> simp [signedValue]

theorem isFinite_neg {x : Word} (h : isFinite x = true) : isFinite (neg x) = true := by
  rw [isFinite_iff, magBits_neg (isNaN_of_isFinite h)]; exact isFinite_iff.1 h

/-- A sum of finite words that is not zero is rounded once. -/
theorem add_of_isFinite {x y : Word} (hx : isFinite x = true) (hy : isFinite y = true) :
    add x y = if signedUnits x + signedUnits y = 0 then (if sign x && sign y then negZero else zero)
      else round (decide (signedUnits x + signedUnits y < 0)) (signedUnits x + signedUnits y).natAbs 1 := by
  simp [add, isNaN_of_isFinite hx, isNaN_of_isFinite hy, isInf_of_isFinite hx, isInf_of_isFinite hy]

theorem mul_of_isFinite {x y : Word} (hx : isFinite x = true) (hy : isFinite y = true) :
    mul x y = round (sign x != sign y) (units x * units y) (2 ^ 149) := by
  simp [mul, isNaN_of_isFinite hx, isNaN_of_isFinite hy, isInf_of_isFinite hx, isInf_of_isFinite hy]

theorem div_of_isFinite {x y : Word} (hx : isFinite x = true) (hy : isFinite y = true) (h0 : isZero y = false) :
    div x y = round (sign x != sign y) (units x * 2 ^ 149) (units y) := by
  simp [div, isNaN_of_isFinite hx, isNaN_of_isFinite hy, isInf_of_isFinite hx, isInf_of_isFinite hy, h0]

theorem units_pos {x : Word} (h : isZero x = false) : 0 < units x := by
  refine Nat.pos_of_ne_zero fun h0 => ?_
  rw [units, magUnits_eq_zero, ← isZero_iff, h] at h0
  cases h0

theorem nearestEven_add {x y : Word} (hx : isFinite x = true) (hy : isFinite y = true) :
    NearestEven (value x + value y) (add x y) := by
  have hsum : value x + value y = ((signedUnits x + signedUnits y : ℤ) : ℚ) / 2 ^ 149 := by
    simp only [value]; push_cast; ring
  rw [add_of_isFinite hx hy, hsum]
  generalize signedUnits x + signedUnits y = u
  split
  · rename_i h0
    subst h0
    split
    · exact nearestEven_of_value_eq (by decide) (by rw [Int.cast_zero, zero_div, ← isZero_iff_value]; decide)
    · exact nearestEven_of_value_eq (by decide) (by rw [Int.cast_zero, zero_div, ← isZero_iff_value]; decide)
  · have hu : (u : ℚ) / 2 ^ 149 = signedValue (decide (u < 0)) u.natAbs 1 := by
      rw [signedValue, Nat.cast_natAbs]
      split
      · rename_i hneg
        rw [abs_of_neg (by simpa using hneg)]; push_cast; ring
      · rename_i hnn
        rw [abs_of_nonneg (by simpa using hnn)]; simp
    rw [hu]
    exact nearestEven_round _ Nat.one_pos

theorem nearestEven_sub {x y : Word} (hx : isFinite x = true) (hy : isFinite y = true) :
    NearestEven (value x - value y) (sub x y) := by
  have h := nearestEven_add hx (isFinite_neg hy)
  rwa [value_neg (isNaN_of_isFinite hy), ← sub_eq_add_neg] at h

theorem nearestEven_mul {x y : Word} (hx : isFinite x = true) (hy : isFinite y = true) :
    NearestEven (value x * value y) (mul x y) := by
  have hq : value x * value y = signedValue (sign x != sign y) (units x * units y) (2 ^ 149) := by
    rw [value_eq_signedValue x, value_eq_signedValue y]
    cases sign x <;> cases sign y <;> simp [signedValue] <;> ring
  rw [hq, mul_of_isFinite hx hy]
  exact nearestEven_round _ (by positivity)

theorem nearestEven_div {x y : Word} (hx : isFinite x = true) (hy : isFinite y = true) (h0 : isZero y = false) :
    NearestEven (value x / value y) (div x y) := by
  have hu : (units y : ℚ) ≠ 0 := by exact_mod_cast (units_pos h0).ne'
  have hq : value x / value y = signedValue (sign x != sign y) (units x * 2 ^ 149) (units y) := by
    rw [value_eq_signedValue x, value_eq_signedValue y]
    cases sign x <;> cases sign y <;> simp [signedValue] <;> field_simp <;> norm_num
  rw [hq, div_of_isFinite hx hy h0]
  exact nearestEven_round _ (units_pos h0)

end Sys2Proof.Machine.F32

namespace Sys2Proof.Machine

/-- Settles O32: each operation is one `round` of its exact result. -/
theorem arithmeticRoundsToNearestEven : Obligations.ArithmeticRoundsToNearestEven := fun _ _ hx hy =>
  ⟨F32.nearestEven_add hx hy, F32.nearestEven_sub hx hy, F32.nearestEven_mul hx hy, F32.nearestEven_div hx hy⟩

end Sys2Proof.Machine

/-! SUPPORT. The four operations on NaNs, infinities and zeros (00_scope.md R14, R19). -/

namespace Sys2Proof.Machine.F32

/-! ## The classes exclude each other, and negation keeps them -/

theorem isNaN_of_isInf {x : Word} (h : isInf x = true) : isNaN x = false := by
  rw [isInf_iff] at h; rw [isNaN_false_iff, h]

theorem isZero_of_isInf {x : Word} (h : isInf x = true) : isZero x = false := by
  rw [isInf_iff] at h; rw [isZero, h]; decide

theorem isFinite_of_isZero {x : Word} (h : isZero x = true) : isFinite x = true := by
  rw [isZero_iff] at h; rw [isFinite_iff, h]; decide

theorem isFinite_or_isInf {x : Word} (h : isNaN x = false) : isFinite x = true ∨ isInf x = true := by
  rw [isNaN_false_iff] at h; rw [isFinite_iff, isInf_iff]; exact h.lt_or_eq

@[simp] theorem isInf_neg (x : Word) : isInf (neg x) = isInf x := by
  cases h : isNaN x
  · rw [isInf, magBits_neg h, isInf]
  · rw [neg_of_isNaN h, isInf, isInf, decide_eq_decide]
    have := isNaN_iff.1 h
    constructor
    · intro hq; exact absurd hq (by decide)
    · omega

@[simp] theorem isZero_neg (x : Word) : isZero (neg x) = isZero x := by
  cases h : isNaN x
  · rw [isZero, magBits_neg h, isZero]
  · rw [neg_of_isNaN h, isZero, isZero, decide_eq_decide]
    have := isNaN_iff.1 h
    constructor
    · intro hq; exact absurd hq (by decide)
    · omega

@[simp] theorem isInf_pack_infBits (b : Bool) : isInf (pack b infBits) = true := by cases b <;> decide

@[simp] theorem isZero_pack_zero (b : Bool) : isZero (pack b 0) = true := by cases b <;> decide

@[simp] theorem sign_pack_infBits (b : Bool) : sign (pack b infBits) = b := by cases b <;> decide

@[simp] theorem sign_pack_zero (b : Bool) : sign (pack b 0) = b := by cases b <;> decide

theorem eq_qnan_of_canon {w : Word} (hc : canon w = w) (h : isNaN w = true) : w = qnan := by
  rw [← hc, canon, if_pos h]

theorem units_of_isZero {x : Word} (h : isZero x = true) : units x = 0 := by
  rw [units, isZero_iff.1 h, magUnits_zero]

theorem signedUnits_of_isZero {x : Word} (h : isZero x = true) : signedUnits x = 0 := by
  simp [signedUnits, units_of_isZero h]

theorem signedUnits_neg {x : Word} (h : isNaN x = false) : signedUnits (neg x) = -signedUnits x := by
  rw [signedUnits, signedUnits, sign_neg h, units, magBits_neg h, ← units]
  cases sign x <;> simp

theorem abs_of_not_isNaN {x : Word} (h : isNaN x = false) : abs x = x &&& 0x7FFFFFFF := by simp [abs, h]

theorem abs_of_isNaN {x : Word} (h : isNaN x = true) : abs x = qnan := by simp [abs, h]

/-! ## NaN operands (R19) -/

theorem sub_of_isNaN {x y : Word} (h : isNaN x = true ∨ isNaN y = true) : sub x y = qnan := by
  rcases h with h | h
  · exact add_isNaN_left h
  · exact add_isNaN_right (by rw [isNaN_neg, h])

theorem add_of_isNaN {x y : Word} (h : isNaN x = true ∨ isNaN y = true) : add x y = qnan :=
  h.elim add_isNaN_left add_isNaN_right

theorem mul_of_isNaN {x y : Word} (h : isNaN x = true ∨ isNaN y = true) : mul x y = qnan :=
  h.elim mul_isNaN_left mul_isNaN_right

theorem div_of_isNaN {x y : Word} (h : isNaN x = true ∨ isNaN y = true) : div x y = qnan := by
  rcases h with h | h <;> simp [div, h]

/-! ## Infinities and zeros (R14) -/

theorem add_of_isInf_left {x y : Word} (hx : isInf x = true) (hy : isNaN y = false) :
    add x y = if isInf y = true ∧ sign x ≠ sign y then qnan else x := by
  simp [add, isNaN_of_isInf hx, hx, hy]

theorem add_of_isInf_right {x y : Word} (hx : isFinite x = true) (hy : isInf y = true) : add x y = y := by
  simp [add, isNaN_of_isFinite hx, isInf_of_isFinite hx, isNaN_of_isInf hy, hy]

theorem add_of_isZero {x y : Word} (hx : isZero x = true) (hy : isZero y = true) :
    add x y = if sign x = true ∧ sign y = true then negZero else zero := by
  rw [add_of_isFinite (isFinite_of_isZero hx) (isFinite_of_isZero hy), signedUnits_of_isZero hx,
    signedUnits_of_isZero hy]
  simp

theorem sub_self_of_isFinite {x : Word} (hx : isFinite x = true) : sub x x = zero := by
  have hn := isNaN_of_isFinite hx
  rw [sub, add_of_isFinite hx (isFinite_neg hx), signedUnits_neg hn, sign_neg hn]
  simp

theorem mul_of_isInf {x y : Word} (hx : isNaN x = false) (hy : isNaN y = false)
    (h : isInf x = true ∨ isInf y = true) :
    mul x y = if isZero x = true ∨ isZero y = true then qnan else pack (sign x != sign y) infBits := by
  rcases h with h | h <;> simp [mul, hx, hy, h]

theorem isZero_mul {x y : Word} (hx : isFinite x = true) (hy : isFinite y = true)
    (h : isZero x = true ∨ isZero y = true) : isZero (mul x y) = true := by
  rw [mul_of_isFinite hx hy, isZero_iff, magBits_round]
  rcases h with h | h <;> simp [units_of_isZero h]

theorem div_of_isInf_left {x y : Word} (hx : isInf x = true) (hy : isNaN y = false) :
    div x y = if isInf y = true then qnan else pack (sign x != sign y) infBits := by
  simp [div, isNaN_of_isInf hx, hx, hy]

theorem div_of_isInf_right {x y : Word} (hx : isFinite x = true) (hy : isInf y = true) :
    div x y = pack (sign x != sign y) 0 := by
  simp [div, isNaN_of_isFinite hx, isInf_of_isFinite hx, isNaN_of_isInf hy, hy]

theorem div_of_isZero_right {x y : Word} (hx : isFinite x = true) (hy : isZero y = true) :
    div x y = if isZero x = true then qnan else pack (sign x != sign y) infBits := by
  have hy' := isFinite_of_isZero hy
  simp [div, isNaN_of_isFinite hx, isInf_of_isFinite hx, isNaN_of_isFinite hy', isInf_of_isFinite hy', hy]

theorem isZero_div {x y : Word} (hx : isZero x = true) (hy : isFinite y = true) (h0 : isZero y = false) :
    isZero (div x y) = true := by
  rw [div_of_isFinite (isFinite_of_isZero hx) hy h0, isZero_iff, magBits_round]
  simp [units_of_isZero hx]

/-- R166: the sign of a product. -/
theorem sign_mul {x y : Word} (h : isNaN (mul x y) = false) : sign (mul x y) = (sign x != sign y) := by
  unfold mul at h ⊢
  split_ifs at h ⊢ <;> simp_all

/-- R14: the sign of a quotient. -/
theorem sign_div {x y : Word} (h : isNaN (div x y) = false) : sign (div x y) = (sign x != sign y) := by
  unfold div at h ⊢
  split_ifs at h ⊢ <;> simp_all

end Sys2Proof.Machine.F32

namespace Sys2Proof.Machine

open F32 in
/-- Settles O33: each clause is one branch of the operation it speaks of. -/
theorem arithmeticSpecialValues : Obligations.ArithmeticSpecialValues := by
  refine ⟨fun x y => ?_, fun x => ?_⟩
  · refine ⟨fun h => ⟨add_of_isNaN h, sub_of_isNaN h, mul_of_isNaN h, div_of_isNaN h⟩,
      eq_qnan_of_canon (add_canon x y), eq_qnan_of_canon (sub_canon x y), eq_qnan_of_canon (mul_canon x y),
      eq_qnan_of_canon (div_canon x y), ?infInf, ?infFinite, ?zeroZero, sub_self_of_isFinite, ?infMul, ?zeroMulInf,
      ?zeroMul, ?byZero, sign_mul, sign_div⟩
    case infInf =>
      intro hx hy
      have hnx := isNaN_of_isInf hx
      have hny := isNaN_of_isInf hy
      rw [sub, add_of_isInf_left hx hny, add_of_isInf_left hx (by rw [isNaN_neg, hny]), isInf_neg, sign_neg hny,
        div_of_isInf_left hx hny]
      cases sign x <;> cases sign y <;> simp [hy, qnan]
    case infFinite =>
      intro hx hy
      have hnx := isNaN_of_isInf hx
      have hny := isNaN_of_isFinite hy
      have hiy := isInf_of_isFinite hy
      refine ⟨?_, add_of_isInf_right hy hx, ?_, add_of_isInf_right hy (by rw [isInf_neg, hx]), ?_, ?_⟩
      · rw [add_of_isInf_left hx hny]; simp [hiy]
      · rw [sub, add_of_isInf_left hx (by rw [isNaN_neg, hny])]; simp [hiy]
      · rw [div_of_isInf_left hx hny]; simp [hiy]
      · rw [div_of_isInf_right hy hx]; simp
    case zeroZero =>
      intro hx hy
      have hny := isNaN_of_isFinite (isFinite_of_isZero hy)
      rw [sub, add_of_isZero hx hy, add_of_isZero hx (by rw [isZero_neg, hy]), sign_neg hny,
        div_of_isZero_right (isFinite_of_isZero hx) hy]
      simp [hx, negZero, zero, qnan]
    case infMul =>
      intro hx hny h0
      rw [mul_of_isInf (isNaN_of_isInf hx) hny (.inl hx), mul_of_isInf hny (isNaN_of_isInf hx) (.inr hx)]
      simp [h0, isZero_of_isInf hx]
    case zeroMulInf =>
      intro hx hy
      have hnx := isNaN_of_isFinite (isFinite_of_isZero hx)
      rw [mul_of_isInf hnx (isNaN_of_isInf hy) (.inr hy), mul_of_isInf (isNaN_of_isInf hy) hnx (.inl hy)]
      simp [hx, qnan]
    case zeroMul =>
      intro hx hy
      have hfx := isFinite_of_isZero hx
      exact ⟨isZero_mul hfx hy (.inl hx), isZero_mul hy hfx (.inr hx)⟩
    case byZero =>
      intro hx h0 hy
      rw [div_of_isZero_right hx hy]
      exact ⟨by simp [h0], isZero_div hy hx h0⟩
  · exact ⟨fun h => ⟨neg_of_not_isNaN h, abs_of_not_isNaN h⟩, fun h => ⟨neg_of_isNaN h, abs_of_isNaN h⟩⟩

end Sys2Proof.Machine

/-! SUPPORT. The fields of a binary32 word (10_state.md R30), the comparisons and clamp32 (00_scope.md R15, R16). -/

namespace Sys2Proof.Machine.F32

/-! ## The binary32 fields (10_state.md R30) -/

theorem magBits_eq_fields (x : Word) :
    magBits x = (x.extractLsb' 23 8).toNat * 2 ^ 23 + (x.extractLsb' 0 23).toNat := by
  simp only [magBits, BitVec.extractLsb'_toNat, Nat.shiftRight_eq_div_pow]
  omega

/-- The magnitude, from the exponent and the fraction field: subnormal, or normal with the hidden bit. -/
theorem magUnits_fields {e f : Nat} (hf : f < 2 ^ 23) :
    (magUnits (e * 2 ^ 23 + f) : ℚ) / 2 ^ 149 =
      if e = 0 then (f : ℚ) / 2 ^ 149 else (1 + (f : ℚ) / 2 ^ 23) * 2 ^ e / 2 ^ 127 := by
  rcases e with _ | k
  · simp [magUnits_small (show f < 2 ^ 24 by omega)]
  · rw [show (k + 1) * 2 ^ 23 + f = k * 2 ^ 23 + (2 ^ 23 + f) by ring, magUnits_normal (by omega) (by omega),
      if_neg (Nat.succ_ne_zero k)]
    push_cast
    field_simp
    ring

/-! ## Comparisons (R15) -/

theorem lt_of_isNaN {x y : Word} (h : isNaN x = true ∨ isNaN y = true) : lt x y = false := by
  rcases h with h | h <;> simp [lt, h]

theorem le_of_isNaN {x y : Word} (h : isNaN x = true ∨ isNaN y = true) : le x y = false := by
  rcases h with h | h <;> simp [le, h]

theorem eq_of_isNaN {x y : Word} (h : isNaN x = true ∨ isNaN y = true) : eq x y = false := by
  rcases h with h | h <;> simp [eq, h]

/-- R15: of two words that are no NaN, one is less or the other is at most it. -/
theorem lt_false_iff {x y : Word} (hx : isNaN x = false) (hy : isNaN y = false) : lt x y = false ↔ le y x = true := by
  simp [lt, le, hx, hy]

theorem isNaN_right_of_le {x y : Word} (h : le x y = true) : isNaN y = false := by
  obtain ⟨-, hy, -⟩ := le_iff.1 h
  exact hy

theorem le_of_lt' {x y : Word} (h : lt x y = true) : le x y = true := by
  obtain ⟨hx, hy, hk⟩ := lt_iff.1 h
  exact le_iff.2 ⟨hx, hy, hk.le⟩

theorem lt_of_lt_of_le' {x y z : Word} (h1 : lt x y = true) (h2 : le y z = true) : lt x z = true := by
  obtain ⟨hx, -, hk⟩ := lt_iff.1 h1
  obtain ⟨-, hz, hk'⟩ := le_iff.1 h2
  exact lt_iff.2 ⟨hx, hz, hk.trans_le hk'⟩

/-! ## clamp32 (R16) -/

theorem clamp_of_crossed {x lo hi : Word} (h : lt hi lo = true) (hx : isNaN x = false) : clamp x lo hi = hi := by
  cases hl : lt x lo
  · have hlo := isNaN_right_of_le (le_of_lt' h)
    have hhx : lt hi x = true := lt_of_lt_of_le' h ((lt_false_iff hx hlo).1 hl)
    simp [clamp, hl, hhx]
  · simp [clamp, hl, h]

theorem clamp_of_isNaN_lo {x lo hi : Word} (h : isNaN lo = true) : clamp x lo hi = if lt hi x then hi else x := by
  simp [clamp, lt_of_isNaN (x := x) (.inr h)]

theorem clamp_of_isNaN_hi {x lo hi : Word} (h : isNaN hi = true) : clamp x lo hi = if lt x lo then lo else x := by
  simp [clamp, lt_of_isNaN (y := if lt x lo then lo else x) (.inl h)]

end Sys2Proof.Machine.F32

namespace Sys2Proof.Machine

/-- Settles O34: each clause is one branch of the two comparisons. -/
theorem clampLaws : Obligations.ClampLaws := fun _ _ _ =>
  ⟨rfl, F32.clamp_of_inRange, F32.clamp_of_crossed, F32.clamp_of_isNaN_lo, F32.clamp_of_isNaN_hi, F32.clamp_isNaN⟩

open F32 in
/-- Settles O35: sign and magnitude bits are ordered as the exact values are. -/
theorem comparisonsAreThoseOfTheValues : Obligations.ComparisonsAreThoseOfTheValues := by
  refine ⟨fun x => ?_, fun x y => ⟨?_, ?_, ?_⟩⟩
  · have he : (x.extractLsb' 23 8).toNat < 2 ^ 8 := BitVec.isLt _
    have hf : (x.extractLsb' 0 23).toNat < 2 ^ 23 := BitVec.isLt _
    have hmag := magBits_eq_fields x
    have hvalue := magUnits_fields (e := (x.extractLsb' 23 8).toNat) hf
    dsimp only
    generalize (x.extractLsb' 23 8).toNat = e at *
    generalize (x.extractLsb' 0 23).toNat = f at *
    have hsign : sign x = x.getLsbD 31 := BitVec.msb_eq_getLsbD_last x
    rw [isNaN_iff, isInf_iff, isFinite_iff, isZero_iff, hmag, infBits, ← hsign]
    refine ⟨rfl, by omega, by omega, by omega, by omega, fun _ => ?_⟩
    rw [← hvalue, ← hmag, ← units]
    cases hs : sign x
    · simp [value_of_sign_false hs]
    · simp [value_of_sign_true hs]
  · intro hx hy
    have hnx := isNaN_of_isFinite hx
    have hny := isNaN_of_isFinite hy
    exact ⟨lt_iff_value hnx hny, le_iff_value hnx hny, eq_iff_value hnx hny⟩
  · intro hx
    have hmag := isFinite_iff.1 hx
    have hkey : -(infBits : Int) < key x ∧ key x < infBits := by
      unfold key; split <;> omega
    have hnx := isNaN_of_isFinite hx
    exact ⟨lt_iff.2 ⟨hnx, by decide, hkey.2⟩, lt_iff.2 ⟨by decide, hnx, hkey.1⟩⟩
  · exact fun h => ⟨lt_of_isNaN h, le_of_isNaN h, eq_of_isNaN h⟩

end Sys2Proof.Machine

/-! SUPPORT. Whole numbers and integral parts of binary32 words (00_scope.md R17, R21). -/

namespace Sys2Proof.Machine.F32

/-! ## Magnitudes of few significant bits -/

/-- A number of at most 24 significant bits, at any exponent of a finite word, is a magnitude. -/
theorem exists_magUnits_eq {c : Nat} (hc : c ≤ 2 ^ 24) :
    ∀ {k : Nat}, k ≤ 252 → ∃ m < infBits, magUnits m = c * 2 ^ k
  | 0, _ => ⟨c, hc.trans_lt (by decide), by simpa using magUnits_grid (k := 0) (.inl rfl) hc⟩
  | k + 1, hk => by
    by_cases h : 2 ^ 23 ≤ c
    · refine ⟨(k + 1) * 2 ^ 23 + c, ?_, magUnits_grid (.inr h) hc⟩
      unfold infBits; omega
    · obtain ⟨m, hm, he⟩ := exists_magUnits_eq (c := 2 * c) (by omega) (k := k) (by omega)
      exact ⟨m, hm, by rw [he]; ring⟩

/-- Rounding is exact on such a number of whole ones. -/
theorem units_round_whole (b : Bool) {c : Nat} (hc : c ≤ 2 ^ 24) :
    isFinite (round b (c * 2 ^ 149) 1) = true ∧ units (round b (c * 2 ^ 149) 1) = c * 2 ^ 149 := by
  obtain ⟨m, hm, he⟩ := exists_magUnits_eq hc (k := 149) (by norm_num)
  have hround : roundMag (c * 2 ^ 149) 1 = m := by
    rw [← he, ← Nat.mul_one (magUnits m)]; exact roundMag_exact hm.le Nat.one_pos
  rw [isFinite_iff, units, magBits_round, hround]
  exact ⟨hm, he⟩

/-! ## f32(n) (R21) -/

theorem isFinite_ofInt {n : Int} (h : n.natAbs ≤ 2 ^ 24) : isFinite (ofInt n) = true := (units_round_whole _ h).1

theorem sign_ofInt (n : Int) : sign (ofInt n) = decide (n < 0) := sign_round ..

theorem units_ofInt {n : Int} (h : n.natAbs ≤ 2 ^ 24) : units (ofInt n) = n.natAbs * 2 ^ 149 :=
  (units_round_whole _ h).2

theorem value_ofInt {n : Int} (h : n.natAbs ≤ 2 ^ 24) : value (ofInt n) = n := by
  have hs := sign_ofInt n
  by_cases hn : n < 0
  · rw [value_of_sign_true (by simpa [hn] using hs), units_ofInt h]
    push_cast
    rw [Nat.cast_natAbs, abs_of_neg hn]
    push_cast
    field_simp
    ring
  · rw [value_of_sign_false (by simpa [hn] using hs), units_ofInt h]
    push_cast
    rw [Nat.cast_natAbs, abs_of_nonneg (not_lt.1 hn)]
    field_simp
    ring

/-! ## Whole parts of a magnitude -/

theorem floor_units (x : Word) : ⌊(units x : ℚ) / 2 ^ 149⌋ = ((units x / 2 ^ 149 : Nat) : Int) := by
  have := Rat.floor_intCast_div_natCast (units x) (2 ^ 149)
  push_cast at this ⊢
  exact this

/-- `int(x)` is the value rounded toward zero (R21). -/
theorem toInt_eq (x : Word) : toInt x = if value x < 0 then ⌈value x⌉ else ⌊value x⌋ := by
  have hu : (0 : ℚ) ≤ (units x : ℚ) / 2 ^ 149 := by positivity
  cases hs : sign x
  · have hv := value_of_sign_false hs
    rw [if_neg (by rw [hv]; exact not_lt.2 hu), hv, floor_units, toInt, hs]
    rfl
  · have hv := value_of_sign_true hs
    rw [toInt, hs, if_pos rfl, hv, ← floor_units]
    split
    · rw [Int.ceil_neg]
    · rename_i h
      have h0 : (units x : ℚ) / 2 ^ 149 = 0 := by linarith
      rw [h0]; simp

/-! ## trunc32 (R17) -/

theorem trunc_of_isNaN {x : Word} (h : isNaN x = true) : trunc x = qnan := by simp [trunc, h]

/-- Dropping the low bits of a significand of exponent step `k ≥ 126` below the point. -/
theorem magUnits_drop {k m j : Nat} (h1 : 2 ^ 23 ≤ m) (h2 : m < 2 ^ 24) (hj : k + j = 149) (hj1 : j ≤ 23) :
    magUnits ((k * 2 ^ 23 + m) / 2 ^ j * 2 ^ j) = m * 2 ^ k / 2 ^ 149 * 2 ^ 149 := by
  have hsplit : (2 : Nat) ^ 23 = 2 ^ (23 - j) * 2 ^ j := by rw [← pow_add]; congr 1; omega
  have hpos := Nat.two_pow_pos j
  have hdrop : (k * 2 ^ 23 + m) / 2 ^ j * 2 ^ j = k * 2 ^ 23 + m / 2 ^ j * 2 ^ j := by
    rw [hsplit, ← Nat.mul_assoc, Nat.add_comm, Nat.add_mul_div_right _ _ hpos]; ring
  have hge : 2 ^ 23 ≤ m / 2 ^ j * 2 ^ j := by
    rw [hsplit]
    refine Nat.mul_le_mul_right _ ((Nat.le_div_iff_mul_le hpos).2 ?_)
    rwa [← hsplit]
  have h149 : (2 : Nat) ^ 149 = 2 ^ j * 2 ^ k := by rw [← hj, pow_add, mul_comm]
  rw [hdrop, magUnits_normal hge ((Nat.div_mul_le_self _ _).trans_lt h2), h149,
    Nat.mul_div_mul_right _ _ (Nat.two_pow_pos k)]
  ring

/-- The value of `trunc32` of a finite word: its sign stays, its magnitude drops to a whole number. -/
theorem trunc_of_isFinite {x : Word} (h : isFinite x = true) :
    isFinite (trunc x) = true ∧ sign (trunc x) = sign x ∧ units (trunc x) = units x / 2 ^ 149 * 2 ^ 149 := by
  have hfin := isFinite_iff.1 h
  have hexpo : expo x = magBits x / 2 ^ 23 := rfl
  have hinf : infBits = 255 * 2 ^ 23 := rfl
  unfold trunc
  rw [if_neg (by simp [isNaN_of_isFinite h])]
  split
  · rename_i he
    have hlt : units x < 2 ^ 149 := by
      calc units x < magUnits (126 * 2 ^ 23 + 2 ^ 23) := magUnits_strictMono (by omega)
        _ = 2 ^ 149 := by rw [magUnits_normal le_rfl (by norm_num)]; norm_num
    rw [isFinite_iff, units, magBits_pack _ (by norm_num), sign_pack _ (by norm_num), Nat.div_eq_of_lt hlt]
    exact ⟨by decide, rfl, by simp⟩
  · rename_i he
    obtain ⟨k, m, hb, h1, h2⟩ := magBits_normal_form (b := magBits x) (by omega)
    have hunits : units x = m * 2 ^ k := by rw [units, hb, magUnits_normal h1 h2]
    split
    · have h149 : m * 2 ^ k = m * 2 ^ (k - 149) * 2 ^ 149 := by
        rw [mul_assoc, ← pow_add]; congr 2; omega
      refine ⟨h, rfl, ?_⟩
      rw [hunits, h149, Nat.mul_div_cancel _ (by positivity)]
    · have hlt : magBits x / 2 ^ (150 - expo x) * 2 ^ (150 - expo x) < infBits :=
        (Nat.div_mul_le_self _ _).trans_lt hfin
      have hlt' := hlt.trans (show infBits < 2 ^ 31 by decide)
      rw [isFinite_iff, units, magBits_pack _ hlt', sign_pack _ hlt']
      refine ⟨hlt, rfl, ?_⟩
      rw [hunits, hb]
      exact magUnits_drop h1 h2 (by omega) (by omega)

theorem trunc_of_isInf {x : Word} (h : isInf x = true) : trunc x = x := by
  have he : expo x = 255 := by rw [expo, isInf_iff.1 h]; rfl
  simp [trunc, isNaN_of_isInf h, he]

/-- `trunc32` of a finite word has the value `int` gives (R17, R21). -/
theorem value_trunc {x : Word} (h : isFinite x = true) : value (trunc x) = toInt x := by
  obtain ⟨-, hsign, hunits⟩ := trunc_of_isFinite h
  have hq : ((units (trunc x) : Nat) : ℚ) / 2 ^ 149 = ((units x / 2 ^ 149 : Nat) : ℚ) := by
    rw [hunits, Nat.cast_mul, Nat.cast_pow, Nat.cast_ofNat]
    exact mul_div_cancel_right₀ _ (by positivity)
  cases hs : sign x
  · rw [value_of_sign_false (hsign.trans hs), hq, toInt, hs]; rfl
  · rw [value_of_sign_true (hsign.trans hs), hq, toInt, hs, if_pos rfl, Int.cast_neg, Int.cast_natCast]

theorem units_trunc_eq_iff {x : Word} (h : isFinite x = true) : units (trunc x) = units x ↔ trunc x = x := by
  obtain ⟨-, hsign, -⟩ := trunc_of_isFinite h
  exact ⟨fun hu => word_ext hsign (magUnits_strictMono.injective hu), fun he => by rw [he]⟩

/-- R17: truncating twice is truncating once. -/
theorem trunc_trunc {x : Word} (h : isFinite x = true) : trunc (trunc x) = trunc x := by
  obtain ⟨hfin, -, hunits⟩ := trunc_of_isFinite h
  obtain ⟨-, -, hunits'⟩ := trunc_of_isFinite hfin
  rw [← units_trunc_eq_iff hfin, hunits', hunits, Nat.mul_div_cancel _ (by positivity)]

/-! ## floor32 (R17) -/

theorem floor_of_isNaN {x : Word} (h : isNaN x = true) : floor x = qnan := by simp [floor, h]

/-- `floor32` is `trunc32` but for a negative word that is not whole. -/
theorem floor_eq_trunc {x : Word} (h : isNaN x = false) (hs : sign x = false ∨ trunc x = x) : floor x = trunc x := by
  rcases hs with hs | hs <;> simp [floor, h, hs]

theorem floor_of_isInf {x : Word} (h : isInf x = true) : floor x = x := by
  rw [floor_eq_trunc (isNaN_of_isInf h) (.inr (trunc_of_isInf h)), trunc_of_isInf h]

/-- A negative word that is not whole: `floor32` is the whole number next below its truncation, exactly. -/
theorem floor_of_not_whole {x : Word} (h : isFinite x = true) (hs : sign x = true) (ht : trunc x ≠ x) :
    isFinite (floor x) = true ∧ sign (floor x) = true ∧ units (floor x) = (units x / 2 ^ 149 + 1) * 2 ^ 149 := by
  obtain ⟨hfin, hsign, hunits⟩ := trunc_of_isFinite h
  have hexpo : magBits x < 149 * 2 ^ 23 + 2 ^ 23 := by
    by_contra hc
    have he : 150 ≤ expo x := by unfold expo; omega
    exact ht (by simp [trunc, isNaN_of_isFinite h, he, show ¬ expo x < 127 by omega])
  have hlt : units x < 2 ^ 23 * 2 ^ 149 := by
    calc units x < magUnits (149 * 2 ^ 23 + 2 ^ 23) := magUnits_strictMono hexpo
      _ = 2 ^ 23 * 2 ^ 149 := magUnits_normal le_rfl (by norm_num)
  have hq : units x / 2 ^ 149 < 2 ^ 23 := Nat.div_lt_of_lt_mul (by rwa [mul_comm] at hlt)
  have hfloor : floor x = round true ((units x / 2 ^ 149 + 1) * 2 ^ 149) 1 := by
    have hu : signedUnits (trunc x) + signedUnits (neg one) = -(((units x / 2 ^ 149 + 1) * 2 ^ 149 : Nat) : Int) := by
      have hone : signedUnits (neg one) = -2 ^ 149 := by decide +kernel
      rw [hone, signedUnits, hsign, hs, if_pos rfl, hunits]
      push_cast
      ring
    have hneg : floor x = sub (trunc x) one := by simp [floor, isNaN_of_isFinite h, hs, ht]
    have hpos : 0 < (units x / 2 ^ 149 + 1) * 2 ^ 149 := by positivity
    rw [hneg, sub, add_of_isFinite hfin (by decide), hu, if_neg (by omega), Int.natAbs_neg, Int.natAbs_natCast]
    rw [decide_eq_true (by omega)]
  rw [hfloor, sign_round]
  obtain ⟨h1, h2⟩ := units_round_whole true (c := units x / 2 ^ 149 + 1) (by omega)
  exact ⟨h1, rfl, h2⟩

theorem floor_of_isFinite {x : Word} (h : isFinite x = true) :
    isFinite (floor x) = true ∧ sign (floor x) = sign x ∧ value (floor x) = ⌊value x⌋ := by
  by_cases ht : sign x = false ∨ trunc x = x
  · obtain ⟨hfin, hsign, -⟩ := trunc_of_isFinite h
    rw [floor_eq_trunc (isNaN_of_isFinite h) ht]
    refine ⟨hfin, hsign, ?_⟩
    rcases ht with hs | ht
    · rw [value_trunc h, toInt_eq, if_neg]
      rw [value_of_sign_false hs, not_lt]
      positivity
    · have hv := value_trunc h
      rw [ht] at hv ⊢
      rw [hv, Int.floor_intCast]
  · rw [not_or, Bool.not_eq_false] at ht
    obtain ⟨hs, ht⟩ := ht
    obtain ⟨hfin, hsign, hunits⟩ := floor_of_not_whole h hs ht
    refine ⟨hfin, hsign.trans hs.symm, ?_⟩
    have hne : units x / 2 ^ 149 * 2 ^ 149 ≠ units x := by
      obtain ⟨-, -, htrunc⟩ := trunc_of_isFinite h
      rw [← htrunc]; exact fun hu => ht ((units_trunc_eq_iff h).1 hu)
    have hlo : units x / 2 ^ 149 * 2 ^ 149 < units x := lt_of_le_of_ne (Nat.div_mul_le_self _ _) hne
    have hhi : units x < (units x / 2 ^ 149 + 1) * 2 ^ 149 := by omega
    have hlo' : ((units x / 2 ^ 149 : Nat) : ℚ) < (units x : ℚ) / 2 ^ 149 := by
      rw [lt_div_iff₀ (by positivity)]; exact_mod_cast hlo
    have hhi' : (units x : ℚ) / 2 ^ 149 < ((units x / 2 ^ 149 : Nat) : ℚ) + 1 := by
      rw [div_lt_iff₀ (by positivity)]; exact_mod_cast hhi
    generalize units x / 2 ^ 149 = q at *
    have hfloor : ⌊value x⌋ = -(q : Int) - 1 := by
      rw [Int.floor_eq_iff, value_of_sign_true hs]
      push_cast
      constructor <;> linarith
    rw [hfloor, value_of_sign_true hsign, hunits]
    push_cast
    field_simp
    ring

theorem sign_trunc {x : Word} (h : isNaN x = false) : sign (trunc x) = sign x := by
  rcases isFinite_or_isInf h with h | h
  · obtain ⟨-, hsign, -⟩ := trunc_of_isFinite h
    exact hsign
  · rw [trunc_of_isInf h]

theorem sign_floor {x : Word} (h : isNaN x = false) : sign (floor x) = sign x := by
  rcases isFinite_or_isInf h with h | h
  · obtain ⟨-, hsign, -⟩ := floor_of_isFinite h
    exact hsign
  · rw [floor_of_isInf h]

end Sys2Proof.Machine.F32

/-! ## The nearest word lies on the same side of every finite word -/

namespace Sys2Proof.Machine

open F32

theorem NearestEven.isNaN_eq_false {q : ℚ} {w : Word} (h : NearestEven q w) : isNaN w = false := by
  unfold NearestEven at h
  split at h
  · exact isNaN_of_isFinite h.1
  · exact isNaN_of_isInf h.1

theorem NearestEven.isFinite_eq_true {q : ℚ} {w : Word} (h : NearestEven q w) (hq : |q| < 2 ^ 128 - 2 ^ 103) :
    isFinite w = true := by
  unfold NearestEven at h
  rw [if_pos hq] at h
  exact h.1

/-- Rounding is monotone: what lies at most at a finite word rounds to at most it. -/
theorem NearestEven.value_le {q : ℚ} {w v : Word} (h : NearestEven q w) (hv : isFinite v = true)
    (hq : q ≤ value v) : value w ≤ value v := by
  unfold NearestEven at h
  split at h
  · by_contra hlt
    have hnear := (h.2 v hv).1
    rw [abs_sub_comm, abs_of_nonneg (by linarith), abs_sub_comm, abs_of_nonneg (by linarith)] at hnear
    linarith
  · rename_i hbig
    obtain ⟨hinf, hsign⟩ := h
    obtain ⟨hlo, hhi⟩ := abs_le.1 (isFinite_iff_abs_value.1 hv)
    have hneg : q < 0 := by
      by_contra hc
      rw [abs_of_nonneg (not_lt.1 hc)] at hbig
      norm_num at hbig hhi
      linarith
    have h1 := value_nonpos_of_sign_true (hsign.2 hneg)
    have h2 := abs_value_of_isInf hinf
    rw [abs_of_nonpos h1] at h2
    norm_num at h2 hlo
    linarith

theorem NearestEven.le_value {q : ℚ} {w v : Word} (h : NearestEven q w) (hv : isFinite v = true)
    (hq : value v ≤ q) : value v ≤ value w := by
  unfold NearestEven at h
  split at h
  · by_contra hlt
    have hnear := (h.2 v hv).1
    rw [abs_of_nonneg (by linarith), abs_of_nonneg (by linarith)] at hnear
    linarith
  · rename_i hbig
    obtain ⟨hinf, hsign⟩ := h
    obtain ⟨hlo, hhi⟩ := abs_le.1 (isFinite_iff_abs_value.1 hv)
    have hpos : ¬ q < 0 := by
      intro hc
      rw [abs_of_neg hc] at hbig
      norm_num at hbig hlo
      linarith
    have h1 := value_nonneg_of_sign_false (Bool.eq_false_iff.2 fun hs => hpos (hsign.1 hs))
    have h2 := abs_value_of_isInf hinf
    rw [abs_of_nonneg h1] at h2
    norm_num at h2 hhi
    linarith

namespace F32

/-! ## frac32 (R17) -/

theorem fract_eq (x : Word) : fract x = if le one (sub x (floor x)) then zero else sub x (floor x) := rfl

/-- The fraction of a word that is not finite is QNAN. -/
theorem fract_of_not_isFinite {x : Word} (h : isFinite x = false) : fract x = qnan := by
  have hsub : sub x (floor x) = qnan := by
    cases hn : isNaN x
    · have hi : isInf x = true := (isFinite_or_isInf hn).resolve_left (by simp [h])
      rw [floor_of_isInf hi, sub, add_of_isInf_left hi (by rw [isNaN_neg, hn]), isInf_neg, sign_neg hn]
      simp [hi]
    · exact add_isNaN_left hn
  rw [fract_eq, hsub]
  decide

/-- R17: before the comparison with 1.0, the fraction is the exact one rounded. -/
theorem nearestEven_sub_floor {x : Word} (h : isFinite x = true) :
    NearestEven (value x - ⌊value x⌋) (sub x (floor x)) := by
  obtain ⟨hfin, -, hval⟩ := floor_of_isFinite h
  rw [← hval]
  exact nearestEven_sub h hfin

/-- R17: `frac32` of a finite word lies in [0, 1). -/
theorem inTurn_fract {x : Word} (h : isFinite x = true) : inTurn (fract x) := by
  have hnear := nearestEven_sub_floor h
  have hn := hnear.isNaN_eq_false
  have hge : le zero (sub x (floor x)) = true := by
    rw [le_iff_value isNaN_zero hn]
    exact hnear.le_value (by decide) (by rw [value_zero]; exact sub_nonneg.2 (Int.floor_le _))
  rw [fract_eq]
  cases hle : le one (sub x (floor x))
  · rw [if_neg Bool.false_ne_true]
    refine ⟨hge, ?_⟩
    by_contra hlt
    rw [Bool.not_eq_true, lt_false_iff hn isNaN_one, hle] at hlt
    cases hlt
  · rw [if_pos rfl]
    exact ⟨by decide, by decide⟩

end F32

/-- Settles O36: the three functions by class of word, then `f32(n)`, which is exact up to 2^24. -/
theorem integralPartsOfFiniteWords : Obligations.IntegralPartsOfFiniteWords := by
  refine ⟨fun x => ⟨fun h => ?_, fun h => ⟨sign_floor h, sign_trunc h⟩,
    fun h => ⟨floor_of_isInf h, trunc_of_isInf h, ?_⟩, fun h => ⟨floor_of_isNaN h, trunc_of_isNaN h, ?_⟩⟩,
    fun n hlo hhi => ?_⟩
  · obtain ⟨-, -, hfloor⟩ := floor_of_isFinite h
    refine ⟨hfloor, ?_, toInt_eq x, nearestEven_sub_floor h, rfl, inTurn_fract h⟩
    rw [value_trunc h, toInt_eq]
    split <;> rfl
  · exact fract_of_not_isFinite (by simp [isFinite, isInf_iff.1 h])
  · exact fract_of_not_isFinite (by have := isNaN_iff.1 h; simp [isFinite]; omega)
  · have hn : n.natAbs ≤ 2 ^ 24 := by omega
    have hval := value_ofInt hn
    refine ⟨isFinite_ofInt hn, hval, sign_ofInt n, ?_⟩
    rw [toInt_eq, hval]
    split <;> simp

end Sys2Proof.Machine

/-! SUPPORT. The transcendental functions: order, oddness and bounds of the sequences behind them, and the exact points
of the sine and the cosine (R20). -/

namespace Sys2Proof.Machine.F32

theorem neg_neg_of_not_isNaN {x : Word} (h : isNaN x = false) : neg (neg x) = x := by
  have h' : isNaN (neg x) = false := by rw [isNaN_neg, h]
  apply word_ext
  · rw [sign_neg h', sign_neg h, Bool.not_not]
  · rw [magBits_neg h', magBits_neg h]

/-- Negation reverses the order. -/
theorem neg_le_neg_of_le {x y : Word} (h : le x y = true) : le (neg y) (neg x) = true := by
  obtain ⟨hx, hy, -⟩ := le_iff.1 h
  rw [le_iff_value (by rw [isNaN_neg, hy]) (by rw [isNaN_neg, hx]), value_neg hx, value_neg hy]
  exact neg_le_neg ((le_iff_value hx hy).1 h)

theorem le_neg_zero_of_le {x : Word} (h : le zero x = true) : le (neg x) zero = true :=
  le_trans' (neg_le_neg_of_le h) (by decide)

/-! ## EXP -/

theorem exp_of_sign_true {x : Word} (h : isNaN x = false) (hs : sign x = true) :
    exp x = descend Config.rawExp one zero (magBits x) := by simp [exp, h, hs]

theorem exp_of_sign_false {x : Word} (h : isNaN x = false) (hs : sign x = false) :
    exp x = climb Config.rawExp one inf (magBits x) := by simp [exp, h, hs]

theorem one_le_exp {x : Word} (h : isNaN x = false) (hs : sign x = false) :
    le one (exp x) = true ∧ le (exp x) inf = true := by
  rw [exp_of_sign_false h hs]; exact climb_between _ (by decide) _

theorem exp_le_one {x : Word} (h : isNaN x = false) (hs : sign x = true) :
    le zero (exp x) = true ∧ le (exp x) one = true := by
  rw [exp_of_sign_true h hs]; exact descend_between _ (by decide) _

theorem exp_inRange {x : Word} (h : isNaN x = false) : inRange zero inf (exp x) := by
  cases hs : sign x
  · obtain ⟨h1, h2⟩ := one_le_exp h hs
    exact ⟨le_trans' (by decide) h1, h2⟩
  · obtain ⟨h1, h2⟩ := exp_le_one h hs
    exact ⟨h1, le_trans' h2 (by decide)⟩

/-- What an order says of the magnitude bits, by the signs. -/
theorem magBits_of_le {x y : Word} (h : le x y = true) :
    (sign x = false → sign y = false → magBits x ≤ magBits y) ∧
    (sign x = true → sign y = true → magBits y ≤ magBits x) ∧
    (sign x = false → sign y = true → magBits x = 0 ∧ magBits y = 0) := by
  obtain ⟨-, -, hk⟩ := le_iff.1 h
  unfold key at hk
  refine ⟨fun hx hy => ?_, fun hx hy => ?_, fun hx hy => ?_⟩ <;> simp [hx, hy] at hk <;> omega

theorem exp_mono {x y : Word} (h : le x y = true) : le (exp x) (exp y) = true := by
  obtain ⟨hx, hy, -⟩ := le_iff.1 h
  obtain ⟨hpos, hneg, hzero⟩ := magBits_of_le h
  cases hsx : sign x <;> cases hsy : sign y
  · rw [exp_of_sign_false hx hsx, exp_of_sign_false hy hsy]
    exact climb_mono _ (by decide) (hpos hsx hsy)
  · obtain ⟨h0x, h0y⟩ := hzero hsx hsy
    rw [exp_of_sign_false hx hsx, exp_of_sign_true hy hsy, h0x, h0y]
    exact le_refl' isNaN_one
  · exact le_trans' (exp_le_one hx hsx).2 (one_le_exp hy hsy).1
  · rw [exp_of_sign_true hx hsx, exp_of_sign_true hy hsy]
    exact descend_anti _ (by decide) (hneg hsx hsy)

/-! ## Odd functions: ATAN and TANH -/

section OddFunctions

variable (raw : Word → Word) {bound : Word}

theorem oddClimb_of_sign_false {x : Word} (h : isNaN x = false) (hs : sign x = false) :
    oddClimb raw bound x = climb raw zero bound (magBits x) := by simp [oddClimb, h, hs]

theorem oddClimb_of_sign_true {x : Word} (h : isNaN x = false) (hs : sign x = true) :
    oddClimb raw bound x = neg (climb raw zero bound (magBits x)) := by simp [oddClimb, h, hs]

theorem oddClimb_nonneg (hb : le zero bound = true) {x : Word} (h : isNaN x = false) (hs : sign x = false) :
    le zero (oddClimb raw bound x) = true := by
  rw [oddClimb_of_sign_false raw h hs]; exact (climb_between raw hb _).1

theorem oddClimb_nonpos (hb : le zero bound = true) {x : Word} (h : isNaN x = false) (hs : sign x = true) :
    le (oddClimb raw bound x) zero = true := by
  rw [oddClimb_of_sign_true raw h hs]; exact le_neg_zero_of_le (climb_between raw hb _).1

theorem oddClimb_inRange (hb : le zero bound = true) {x : Word} (h : isNaN x = false) :
    inRange (neg bound) bound (oddClimb raw bound x) := by
  have hc := (climb_between raw hb (magBits x)).2
  cases hs : sign x
  · have h0 := oddClimb_nonneg raw hb h hs
    rw [oddClimb_of_sign_false raw h hs] at h0 ⊢
    exact ⟨le_trans' (le_neg_zero_of_le hb) h0, hc⟩
  · have h0 := oddClimb_nonpos raw hb h hs
    rw [oddClimb_of_sign_true raw h hs] at h0 ⊢
    exact ⟨neg_le_neg_of_le hc, le_trans' h0 hb⟩

theorem oddClimb_neg (hb : le zero bound = true) {x : Word} (h : isNaN x = false) :
    oddClimb raw bound (neg x) = neg (oddClimb raw bound x) := by
  have h' : isNaN (neg x) = false := by rw [isNaN_neg, h]
  have hsn := sign_neg h
  cases hs : sign x
  · rw [oddClimb_of_sign_true raw h' (by rw [hsn, hs]; rfl), oddClimb_of_sign_false raw h hs, magBits_neg h]
  · rw [oddClimb_of_sign_false raw h' (by rw [hsn, hs]; rfl), oddClimb_of_sign_true raw h hs, magBits_neg h,
      neg_neg_of_not_isNaN (isNaN_right_of_le (climb_between raw hb _).1)]

theorem oddClimb_mono (hb : le zero bound = true) {x y : Word} (h : le x y = true) :
    le (oddClimb raw bound x) (oddClimb raw bound y) = true := by
  obtain ⟨hx, hy, -⟩ := le_iff.1 h
  obtain ⟨hpos, hneg, hzero⟩ := magBits_of_le h
  cases hsx : sign x <;> cases hsy : sign y
  · rw [oddClimb_of_sign_false raw hx hsx, oddClimb_of_sign_false raw hy hsy]
    exact climb_mono raw hb (hpos hsx hsy)
  · obtain ⟨h0x, h0y⟩ := hzero hsx hsy
    rw [oddClimb_of_sign_false raw hx hsx, oddClimb_of_sign_true raw hy hsy, h0x, h0y]
    show le zero (neg zero) = true
    decide
  · exact le_trans' (oddClimb_nonpos raw hb hx hsx) (oddClimb_nonneg raw hb hy hsy)
  · rw [oddClimb_of_sign_true raw hx hsx, oddClimb_of_sign_true raw hy hsy]
    exact neg_le_neg_of_le (climb_mono raw hb (hneg hsx hsy))

theorem oddClimb_of_isNaN {x : Word} (h : isNaN x = true) : oddClimb raw bound x = qnan := by simp [oddClimb, h]

end OddFunctions

/-! ## SIN2PI and COS2PI -/

theorem unitInterval_inRange (r : Word) : inRange negOne one (unitInterval r) := by
  unfold unitInterval
  split
  · exact ⟨by decide, by decide⟩
  · rename_i hr
    exact clamp_inRange (Bool.eq_false_iff.2 hr) (by decide)

theorem sin2pi_of_not_isFinite {u : Word} (h : isNaN u = true ∨ isInf u = true) : sin2pi u = qnan := by
  rcases h with h | h <;> simp [sin2pi, h]

theorem cos2pi_of_not_isFinite {u : Word} (h : isNaN u = true ∨ isInf u = true) : cos2pi u = qnan := by
  rcases h with h | h <;> simp [cos2pi, h]

theorem sin2pi_inRange {u : Word} (h : isFinite u = true) : inRange negOne one (sin2pi u) := by
  unfold sin2pi
  rw [if_neg (by simp [isNaN_of_isFinite h, isInf_of_isFinite h])]
  split
  · exact ⟨by decide, by decide⟩
  · split
    · split <;> exact ⟨by decide, by decide⟩
    · exact unitInterval_inRange _

theorem cos2pi_inRange {u : Word} (h : isFinite u = true) : inRange negOne one (cos2pi u) := by
  unfold cos2pi
  rw [if_neg (by simp [isNaN_of_isFinite h, isInf_of_isFinite h])]
  split
  · split <;> exact ⟨by decide, by decide⟩
  · exact unitInterval_inRange _

theorem signedUnits_of_value_eq {u : Word} {n : Int} (h : value u = (n : ℚ) / 4) : signedUnits u = n * 2 ^ 147 := by
  rw [value, div_eq_div_iff (by positivity) (by norm_num)] at h
  have h4 : signedUnits u * 4 = n * 2 ^ 149 := by exact_mod_cast h
  omega

/-- The turns of a multiple of 1/4, counted in quarters (R20). -/
theorem quarterTurns_of_value_eq {u : Word} {n : Int} (h : value u = (n : ℚ) / 4) :
    isQuarterMultiple u = true ∧ (quarterTurns u : Int) = n % 4 := by
  have hu := signedUnits_of_value_eq h
  unfold signedUnits at hu
  unfold isQuarterMultiple quarterTurns
  rw [decide_eq_true_eq]
  cases hs : sign u <;> simp only [hs, if_true, if_false, Bool.false_eq_true] at hu ⊢ <;> omega

/-- SIN2PI at the multiples of 1/4 (R20, log 7). -/
theorem sin2pi_of_value_eq {u : Word} {n : Int} (hf : isFinite u = true) (h : value u = (n : ℚ) / 4) :
    sin2pi u = if u = negZero then negZero else if n % 4 = 1 then one else if n % 4 = 3 then negOne else zero := by
  obtain ⟨hq, ht⟩ := quarterTurns_of_value_eq h
  unfold sin2pi
  rw [if_neg (by simp [isNaN_of_isFinite hf, isInf_of_isFinite hf]), if_pos hq, ← ht]
  congr 1
  have hlt : quarterTurns u < 4 := by omega
  generalize quarterTurns u = k at hlt
  interval_cases k <;> rfl

/-- COS2PI at the multiples of 1/4 (R20, log 7). -/
theorem cos2pi_of_value_eq {u : Word} {n : Int} (hf : isFinite u = true) (h : value u = (n : ℚ) / 4) :
    cos2pi u = if n % 4 = 0 then one else if n % 4 = 2 then negOne else zero := by
  obtain ⟨hq, ht⟩ := quarterTurns_of_value_eq h
  unfold cos2pi
  rw [if_neg (by simp [isNaN_of_isFinite hf, isInf_of_isFinite hf]), if_pos hq, ← ht]
  have hlt : quarterTurns u < 4 := by omega
  generalize quarterTurns u = k at hlt
  interval_cases k <;> rfl

end Sys2Proof.Machine.F32

namespace Sys2Proof.Machine

open F32 in
/-- Settles O38: what the sequences and the exact points give, whatever the free functions are. -/
theorem transcendentalsMeetTheirProperties : Obligations.TranscendentalsMeetTheirProperties := by
  have hpi : le zero halfPi = true := by decide
  have hone : le zero one = true := by decide
  refine ⟨fun x h => ⟨by simp [exp, h, qnan], oddClimb_of_isNaN _ h, oddClimb_of_isNaN _ h,
      sin2pi_of_not_isFinite (.inl h), cos2pi_of_not_isFinite (.inl h)⟩,
    fun x y h => ⟨exp_mono h, oddClimb_mono _ hpi h, oddClimb_mono _ hone h⟩, rfl, rfl, rfl,
    fun x h => ⟨exp_inRange h, oddClimb_inRange _ hpi h, oddClimb_inRange _ hone h, oddClimb_neg _ hpi h,
      oddClimb_neg _ hone h⟩,
    fun u h => ⟨sin2pi_of_not_isFinite (.inr h), cos2pi_of_not_isFinite (.inr h)⟩,
    fun u h => ⟨sin2pi_inRange h, cos2pi_inRange h,
      fun n hn => ⟨cos2pi_of_value_eq h hn, sin2pi_of_value_eq h hn⟩⟩⟩

end Sys2Proof.Machine

/-! SUPPORT. Ranges that the float operations of the units stay in. -/

namespace Sys2Proof.Machine

open F32

/-! ## Ranges as ranges of values -/

theorem inRange_iff_value {lo hi v : Word} (hlo : isNaN lo = false) (hhi : isNaN hi = false) :
    inRange lo hi v ↔ isNaN v = false ∧ value lo ≤ value v ∧ value v ≤ value hi := by
  constructor
  · rintro ⟨h1, h2⟩
    have hv := isNaN_right_of_le h1
    exact ⟨hv, (le_iff_value hlo hv).1 h1, (le_iff_value hv hhi).1 h2⟩
  · rintro ⟨hv, h1, h2⟩
    exact ⟨(le_iff_value hlo hv).2 h1, (le_iff_value hv hhi).2 h2⟩

theorem value_maxF : value maxF = 2 ^ 128 - 2 ^ 104 := by
  rw [value, show signedUnits maxF = (2 ^ 24 - 1) * 2 ^ 253 by decide +kernel]; norm_num

theorem value_two : value two = 2 := by
  rw [value, show signedUnits two = 2 * 2 ^ 149 by decide +kernel]; norm_num

theorem value_half : value half = 1 / 2 := by
  rw [value, show signedUnits half = 2 ^ 148 by decide +kernel]; norm_num

/-- The range of the non-negative classes (R40): the finite words of value at least 0. -/
theorem inRange_zero_maxF_iff {v : Word} : inRange zero maxF v ↔ isFinite v = true ∧ 0 ≤ value v := by
  rw [inRange_iff_value isNaN_zero (by decide), value_zero, value_maxF]
  constructor
  · rintro ⟨-, h0, h1⟩
    exact ⟨isFinite_iff_abs_value.2 (by rwa [abs_of_nonneg h0]), h0⟩
  · rintro ⟨hf, h0⟩
    exact ⟨isNaN_of_isFinite hf, h0, (le_abs_self _).trans (isFinite_iff_abs_value.1 hf)⟩

/-- A range that ends at a finite word holds finite words. -/
theorem isFinite_of_inRange {lo hi v : Word} (hlo : isFinite lo = true) (hhi : isFinite hi = true)
    (h : inRange lo hi v) : isFinite v = true := by
  obtain ⟨-, h1, h2⟩ := (inRange_iff_value (isNaN_of_isFinite hlo) (isNaN_of_isFinite hhi)).1 h
  obtain ⟨hlo', -⟩ := abs_le.1 (isFinite_iff_abs_value.1 hlo)
  obtain ⟨-, hhi'⟩ := abs_le.1 (isFinite_iff_abs_value.1 hhi)
  exact isFinite_iff_abs_value.2 (abs_le.2 ⟨by linarith, by linarith⟩)

/-- R40: a `UNIT` or `COEF` value as a number. -/
theorem value_of_inRange_zero_one {v : Word} (h : inRange zero one v) :
    isFinite v = true ∧ 0 ≤ value v ∧ value v ≤ 1 := by
  obtain ⟨-, h0, h1⟩ := (inRange_iff_value isNaN_zero isNaN_one).1 h
  rw [value_zero] at h0
  rw [value_one] at h1
  exact ⟨isFinite_of_inRange (by decide) (by decide) h, h0, h1⟩

/-- An exact result no larger than MAXF rounds to a finite word. -/
theorem isFinite_of_nearestEven {q : ℚ} {w : Word} (h : NearestEven q w) (hq : |q| ≤ 2 ^ 128 - 2 ^ 104) :
    isFinite w = true :=
  h.isFinite_eq_true (hq.trans_lt (by norm_num))

/-- R16: clamp32 stays in a range that its value lies in, if the lower bound is not above the range and the upper one not
below it. -/
theorem clamp_inRange_of_ends {x lo hi a b : Word} (hx : inRange a b x) (hlo : le lo b = true) (hhi : le a hi = true) :
    inRange a b (clamp x lo hi) := by
  obtain ⟨hax, hxb⟩ := hx
  have ht : inRange a b (if lt x lo then lo else x) := by
    split
    · rename_i h1
      exact ⟨le_trans' hax (le_of_lt' h1), hlo⟩
    · exact ⟨hax, hxb⟩
  simp only [clamp]
  generalize (if lt x lo then lo else x) = t at *
  split
  · rename_i h2
    exact ⟨hhi, le_trans' (le_of_lt' h2) ht.2⟩
  · exact ht

/-- R16: clamp32 of a value that is no NaN stays where both bounds are, even if they are crossed. -/
theorem clamp_inRange_of_bounds {x lo hi a b : Word} (hx : isNaN x = false) (hlo : inRange a b lo)
    (hhi : inRange a b hi) : inRange a b (clamp x lo hi) := by
  obtain ⟨halo, hlob⟩ := hlo
  obtain ⟨hahi, hhib⟩ := hhi
  have hnlo := isNaN_right_of_le halo
  have hnhi := isNaN_right_of_le hahi
  simp only [clamp]
  split
  · split
    · exact ⟨hahi, hhib⟩
    · exact ⟨halo, hlob⟩
  · rename_i h1
    have hlx := (lt_false_iff hx hnlo).1 (Bool.eq_false_iff.2 h1)
    split
    · exact ⟨hahi, hhib⟩
    · rename_i h2
      exact ⟨le_trans' halo hlx, le_trans' ((lt_false_iff hnhi hx).1 (Bool.eq_false_iff.2 h2)) hhib⟩

/-! ## The one-pole recursion (R191) between non-negative words -/

theorem isFinite_sub_of_nonneg {x y : Word} (hx : isFinite x = true) (hy : isFinite y = true) (hx0 : 0 ≤ value x)
    (hy0 : 0 ≤ value y) : isFinite (sub x y) = true := by
  have h1 := isFinite_iff_abs_value.1 hx
  have h2 := isFinite_iff_abs_value.1 hy
  rw [abs_of_nonneg hx0] at h1
  rw [abs_of_nonneg hy0] at h2
  exact isFinite_of_nearestEven (nearestEven_sub hx hy) (abs_le.2 ⟨by linarith, by linarith⟩)

theorem isFinite_mul_unit {a d : Word} (ha : inRange zero one a) (hd : isFinite d = true) :
    isFinite (mul a d) = true := by
  obtain ⟨hfa, h0, h1⟩ := value_of_inRange_zero_one ha
  refine isFinite_of_nearestEven (nearestEven_mul hfa hd) ?_
  rw [abs_mul, abs_of_nonneg h0]
  exact (mul_le_of_le_one_left (abs_nonneg _) h1).trans (isFinite_iff_abs_value.1 hd)

/-- Between finite non-negative words no step of the recursion is a NaN. -/
theorem onePole_isNaN_eq_false {y a x : Word} (hy : inRange zero maxF y) (ha : inRange zero one a)
    (hx : inRange zero maxF x) : isNaN (onePole y a x) = false := by
  obtain ⟨hfy, hy0⟩ := inRange_zero_maxF_iff.1 hy
  obtain ⟨hfx, hx0⟩ := inRange_zero_maxF_iff.1 hx
  exact (nearestEven_add hfy (isFinite_mul_unit ha (isFinite_sub_of_nonneg hfx hfy hx0 hy0))).isNaN_eq_false

/-- Not negative, or a NaN (45_octave.md R276). -/
abbrev NanOrNonneg (x : Word) : Prop := isNaN x = true ∨ le zero x = true

theorem nanOrNonneg_iff {x : Word} (h : isNaN x = false) : NanOrNonneg x ↔ 0 ≤ value x := by
  rw [NanOrNonneg, le_iff_value isNaN_zero h, value_zero]
  simp [h]

/-- From a finite non-negative word to another: the step back is at most the whole way to 0. -/
theorem onePole_nonneg_of_isFinite {y a x : Word} (hfy : isFinite y = true) (hy : 0 ≤ value y)
    (ha : inRange zero one a) (hfx : isFinite x = true) (hx : 0 ≤ value x) : NanOrNonneg (onePole y a x) := by
  obtain ⟨hfa, ha0, ha1⟩ := value_of_inRange_zero_one ha
  have hfd := isFinite_sub_of_nonneg hfx hfy hx hy
  have hneg := value_neg (isNaN_of_isFinite hfy)
  have hd : -value y ≤ value (sub x y) := by
    rw [← hneg]
    exact (nearestEven_sub hfx hfy).le_value (isFinite_neg hfy) (by rw [hneg]; linarith)
  have hp : -value y ≤ value (mul a (sub x y)) := by
    rw [← hneg]
    refine (nearestEven_mul hfa hfd).le_value (isFinite_neg hfy) ?_
    rw [hneg]
    nlinarith
  have hsum := nearestEven_add hfy (isFinite_mul_unit ha hfd)
  refine (nanOrNonneg_iff hsum.isNaN_eq_false).2 ?_
  rw [← value_zero]
  exact hsum.le_value (by decide) (by rw [value_zero]; linarith)

theorem onePole_of_isNaN {y a x : Word} (h : isNaN y = true ∨ isNaN x = true) : onePole y a x = qnan := by
  rcases h with h | h
  · exact add_isNaN_left h
  · rw [onePole, sub_of_isNaN (.inl h), mul_isNaN_right isNaN_qnan, add_isNaN_right isNaN_qnan]

/-- From +inf the recursion goes nowhere else than to a NaN. -/
theorem onePole_of_isInf {y : Word} (hi : isInf y = true) (hy : NanOrNonneg y) (a x : Word) :
    NanOrNonneg (onePole y a x) := by
  unfold onePole
  cases hp : isNaN (mul a (sub x y))
  · rw [add_of_isInf_left hi hp]
    split
    · exact .inl isNaN_qnan
    · exact hy
  · exact .inl (by rw [add_isNaN_right hp, isNaN_qnan])

/-- From a finite word toward +inf the recursion gives +inf, or a NaN where the coefficient is 0. -/
theorem onePole_to_isInf {y a x : Word} (hy : isFinite y = true) (ha : inRange zero one a) (hi : isInf x = true)
    (hx : 0 ≤ value x) : NanOrNonneg (onePole y a x) := by
  obtain ⟨hfa, ha0, -⟩ := value_of_inRange_zero_one ha
  have hnx := isNaN_of_isInf hi
  have hsx : sign x = false := sign_of_value_pos (by
    have h128 := abs_value_of_isInf hi
    rw [abs_of_nonneg hx] at h128
    rw [h128]; norm_num)
  have hsub : sub x y = x := by
    rw [sub, add_of_isInf_left hi (by rw [isNaN_neg, isNaN_of_isFinite hy]), isInf_neg, isInf_of_isFinite hy]
    simp
  rw [onePole, hsub, mul_of_isInf (isNaN_of_isFinite hfa) hnx (.inr hi), isZero_of_isInf hi]
  cases hza : isZero a
  · have hsa : sign a = false := sign_of_value_pos (lt_of_le_of_ne ha0 fun h0 => by
      rw [isZero_iff_value.2 h0.symm] at hza; cases hza)
    have hinf : isInf (pack false infBits) = true := isInf_pack_infBits _
    right
    simp only [hsa, hsx, Bool.false_eq_true, or_self, if_false, bne_self_eq_false]
    rw [add_of_isInf_right hy hinf]
    decide
  · left
    simp [add_isNaN_right isNaN_qnan]

/-- R271, R276: the recursion keeps a value that is not negative, or a NaN, on its way to another such value. -/
theorem onePole_nanOrNonneg {y a x : Word} (hy : NanOrNonneg y) (ha : inRange zero one a) (hx : NanOrNonneg x) :
    NanOrNonneg (onePole y a x) := by
  cases hny : isNaN y
  case true => exact .inl (by rw [onePole_of_isNaN (.inl hny), isNaN_qnan])
  cases hnx : isNaN x
  case true => exact .inl (by rw [onePole_of_isNaN (.inr hnx), isNaN_qnan])
  have hy0 := (nanOrNonneg_iff hny).1 hy
  have hx0 := (nanOrNonneg_iff hnx).1 hx
  rcases isFinite_or_isInf hny with hfy | hiy
  · rcases isFinite_or_isInf hnx with hfx | hix
    · exact onePole_nonneg_of_isFinite hfy hy0 ha hfx hx0
    · exact onePole_to_isInf hfy ha hix hx0
  · exact onePole_of_isInf hiy hy a x

/-! ## The envelope (R271) -/

theorem magBits_and_mask (x : Word) : magBits (x &&& 0x7FFFFFFF) = magBits x := by
  have h : (x &&& 0x7FFFFFFF).toNat = x.toNat % 2 ^ 31 := by
    rw [BitVec.toNat_and]; exact Nat.and_two_pow_sub_one_eq_mod x.toNat 31
  rw [magBits, magBits, h, Nat.mod_mod]

theorem sign_and_mask (x : Word) : sign (x &&& 0x7FFFFFFF) = false := by
  rw [sign, BitVec.msb_and, show (0x7FFFFFFF : Word).msb = false from rfl, Bool.and_false]

theorem nanOrNonneg_abs (x : Word) : NanOrNonneg (F32.abs x) := by
  cases h : isNaN x
  · have hn : isNaN (F32.abs x) = false := by
      rw [abs_of_not_isNaN h, isNaN_false_iff, magBits_and_mask]; exact isNaN_false_iff.1 h
    rw [nanOrNonneg_iff hn]
    exact value_nonneg_of_sign_false (by rw [abs_of_not_isNaN h, sign_and_mask])
  · exact .inl (by rw [abs_of_isNaN h, isNaN_qnan])

/-- R276: the envelope stays not negative, or a NaN. -/
theorem envelope_nanOrNonneg {u : Env} {x : Word} (he : NanOrNonneg u.e) (hatt : inRange zero one u.att)
    (hrel : inRange zero one u.rel) : NanOrNonneg (envelope u x) := by
  unfold envelope
  refine onePole_nanOrNonneg he ?_ (nanOrNonneg_abs x)
  split
  · exact hatt
  · exact hrel

/-! ## Phases (R244, R301) -/

theorem inTurn_fract_or_isNaN (x : Word) : isNaN (fract x) = true ∨ inTurn (fract x) := by
  cases h : isFinite x
  · exact .inl (by rw [fract_of_not_isFinite h, isNaN_qnan])
  · exact .inr (inTurn_fract h)

/-- R301: with a legal ratio and grain length the time-warp step is finite, with room for a phase. -/
theorem timeWarp_bound {u : Gp} (hratio : inRange zero maxF u.ratio) (hglen : isFinite u.glen = true)
    (hglen2 : 2 ≤ value u.glen) :
    isFinite (timeWarp u) = true ∧ |value (timeWarp u)| ≤ (2 ^ 128 - 2 ^ 104) / 2 := by
  obtain ⟨hfr, hr0⟩ := inRange_zero_maxF_iff.1 hratio
  have hfd := isFinite_sub_of_nonneg (x := one) (by decide) hfr (by rw [value_one]; norm_num) hr0
  have hz : isZero u.glen = false := by
    rw [Bool.eq_false_iff, Ne, isZero_iff_value]; intro h0; rw [h0] at hglen2; norm_num at hglen2
  have hnear := nearestEven_div hfd hglen hz
  have hmax : value 0x7EFFFFFF = (2 ^ 128 - 2 ^ 104) / 2 := by
    rw [value, show signedUnits 0x7EFFFFFF = (2 ^ 24 - 1) * 2 ^ 252 by decide +kernel]; norm_num
  have hmin : value 0xFEFFFFFF = -((2 ^ 128 - 2 ^ 104) / 2) := by
    rw [value, show signedUnits 0xFEFFFFFF = -((2 ^ 24 - 1) * 2 ^ 252) by decide +kernel]; norm_num
  have hq : |value (sub one u.ratio) / value u.glen| ≤ (2 ^ 128 - 2 ^ 104) / 2 := by
    rw [abs_div, abs_of_pos (by linarith : 0 < value u.glen)]
    exact div_le_div₀ (by norm_num) (isFinite_iff_abs_value.1 hfd) (by norm_num) hglen2
  obtain ⟨hlo, hhi⟩ := abs_le.1 hq
  refine ⟨isFinite_of_nearestEven hnear (hq.trans (by norm_num)), abs_le.2 ⟨?_, ?_⟩⟩
  · rw [← hmin] at hlo ⊢
    exact hnear.le_value (by decide) hlo
  · rw [← hmax] at hhi ⊢
    exact hnear.value_le (by decide) hhi

/-- R302: a grain phase stays in [0, 1). -/
theorem inTurn_advance {u : Gp} {p : Word} (hratio : inRange zero maxF u.ratio) (hglen : isFinite u.glen = true)
    (hglen2 : 2 ≤ value u.glen) (hp : inTurn p) : inTurn (advance u p) := by
  obtain ⟨hft, ht⟩ := timeWarp_bound hratio hglen hglen2
  obtain ⟨hp0, hp1⟩ := hp
  obtain ⟨-, hnp, -⟩ := le_iff.1 hp0
  rw [le_iff_value isNaN_zero hnp, value_zero] at hp0
  rw [lt_iff_value hnp isNaN_one, value_one] at hp1
  have hfp : isFinite p = true := isFinite_iff_abs_value.2 (by rw [abs_of_nonneg hp0]; norm_num; linarith)
  refine inTurn_fract (isFinite_of_nearestEven (nearestEven_add hfp hft) ?_)
  obtain ⟨hlo, hhi⟩ := abs_le.1 ht
  norm_num at hlo hhi ⊢
  exact abs_le.2 ⟨by linarith, by linarith⟩

/-! ## The pitch tracker (R272) -/

/-- What the tracker's invariant says of one tracker. -/
abbrev TrackerOk (z : Zc) : Prop := z.cnt ≤ cntMax ∧ z.hang ≤ 2 ^ 24 ∧ inRange zero maxF z.f

/-- The ranges of the parameters that steer the tracker's counters and frequency (R56). -/
structure TrackerRanges (z : Zc) : Prop where
  hangLen : inRange zero 0x4B800000 z.hangLen
  fMin : inRange zero maxF z.fMin
  fMax : inRange zero maxF z.fMax
  maxJump : inRange zero maxF z.maxJump
  smooth : inRange zero one z.smooth
  fIdle : inRange zero maxF z.fIdle
  drift : inRange zero one z.drift

@[simp] theorem paramZc_zcGate (z : Zc) (env : Word) : paramZc (zcGate z env) = paramZc z := by
  unfold zcGate; split_ifs <;> rfl

@[simp] theorem paramZc_zcCount (z : Zc) : paramZc (zcCount z) = paramZc z := by
  unfold zcCount; split_ifs <;> rfl

@[simp] theorem paramZc_zcTrigger (z : Zc) (x : Word) : paramZc (zcTrigger z x) = paramZc z := by
  unfold zcTrigger; split_ifs <;> rfl

@[simp] theorem paramZc_zcTrack (z : Zc) (cand : Word) : paramZc (zcTrack z cand) = paramZc z := by
  unfold zcTrack; split_ifs <;> rfl

@[simp] theorem paramZc_zcOnCross (z : Zc) (fs : Word) (cross : Bool) : paramZc (zcOnCross z fs cross) = paramZc z := by
  unfold zcOnCross
  split
  · dsimp only
    split
    · rw [paramZc_zcTrack]; rfl
    · rfl
  · rfl

@[simp] theorem paramZc_zcDrift (z : Zc) : paramZc (zcDrift z) = paramZc z := by
  unfold zcDrift; split_ifs <;> rfl

/-- R272: the tracker's step changes no parameter. -/
theorem paramZc_zcStep (z : Zc) (fs x env : Word) : paramZc (zcStep z fs x env) = paramZc z := by
  simp [zcStep]

/-- The ranges depend on the parameters alone. -/
theorem TrackerRanges.congr {z z' : Zc} (h : paramZc z' = paramZc z) (hz : TrackerRanges z) : TrackerRanges z' := by
  have hp (n : Nat) : paramZc z' n = paramZc z n := congrFun h n
  have h2 : z'.hangLen = z.hangLen := Option.some.inj (hp 2)
  have h4 : z'.fMin = z.fMin := Option.some.inj (hp 4)
  have h5 : z'.fMax = z.fMax := Option.some.inj (hp 5)
  have h7 : z'.maxJump = z.maxJump := Option.some.inj (hp 7)
  have h8 : z'.smooth = z.smooth := Option.some.inj (hp 8)
  have h9 : z'.fIdle = z.fIdle := Option.some.inj (hp 9)
  have h10 : z'.drift = z.drift := Option.some.inj (hp 10)
  obtain ⟨r2, r4, r5, r7, r8, r9, r10⟩ := hz
  constructor
  · rwa [h2]
  · rwa [h4]
  · rwa [h5]
  · rwa [h7]
  · rwa [h8]
  · rwa [h9]
  · rwa [h10]

/-- R40: the hang length, an integer of at most 2^24. -/
theorem toInt_hangLen_le {v : Word} (h : inRange zero 0x4B800000 v) : (toInt v).toNat ≤ 2 ^ 24 := by
  obtain ⟨-, h0, h1⟩ := (inRange_iff_value isNaN_zero (by decide)).1 h
  rw [value_zero] at h0
  rw [show value 0x4B800000 = 2 ^ 24 by
    rw [value, show signedUnits 0x4B800000 = 2 ^ 24 * 2 ^ 149 by decide +kernel]; norm_num] at h1
  rw [toInt_eq, if_neg (not_lt.2 h0)]
  have : ⌊value v⌋ ≤ 2 ^ 24 := by
    rw [← Int.floor_intCast (R := ℚ) (2 ^ 24)]
    exact Int.floor_le_floor (by exact_mod_cast h1)
  omega

theorem zcGate_ok {z : Zc} (hr : TrackerRanges z) (hz : TrackerOk z) (env : Word) : TrackerOk (zcGate z env) := by
  obtain ⟨hcnt, hhang, hf⟩ := hz
  have hlen := toInt_hangLen_le hr.hangLen
  unfold zcGate
  split_ifs
  · exact ⟨hcnt, hlen, hf⟩
  · exact ⟨hcnt, (Nat.sub_le _ _).trans hhang, hf⟩
  · exact ⟨hcnt, hhang, hf⟩
  · exact ⟨hcnt, hhang, hf⟩

/-- R272 phase 2: after counting, the period is from 1 to CNT_MAX. -/
theorem zcCount_ok {z : Zc} (hz : TrackerOk z) : TrackerOk (zcCount z) ∧ 1 ≤ (zcCount z).cnt := by
  obtain ⟨hcnt, hhang, hf⟩ := hz
  unfold zcCount
  split
  · rename_i h
    exact ⟨⟨h, hhang, hf⟩, Nat.le_add_left 1 z.cnt⟩
  · rename_i h
    exact ⟨⟨hcnt, hhang, hf⟩, (show 1 ≤ cntMax by decide).trans (not_lt.1 h)⟩

theorem zcTrigger_ok {z : Zc} (hz : TrackerOk z) (x : Word) :
    TrackerOk (zcTrigger z x) ∧ (zcTrigger z x).cnt = z.cnt := by
  unfold zcTrigger
  split_ifs <;> exact ⟨hz, rfl⟩

/-- R272: a smoothed move between non-negative words, limited by non-negative bounds, ends at one. -/
theorem zcMove_inRange {z : Zc} {k target : Word} (hf : inRange zero maxF z.f) (hmin : inRange zero maxF z.fMin)
    (hmax : inRange zero maxF z.fMax) (hk : inRange zero one k) (ht : inRange zero maxF target) :
    inRange zero maxF (zcMove z k target) :=
  clamp_inRange_of_bounds (onePole_isNaN_eq_false hf hk ht) hmin hmax

/-- The highest legal FS (R40, class FS), which bounds every candidate frequency. -/
theorem value_fsMax : value 0x483B8000 = 192000 := by
  rw [value, show signedUnits 0x483B8000 = 192000 * 2 ^ 149 by decide +kernel]; norm_num

/-- R272 phase 4: the candidate `fs / f32(period)` is at most `fs`. -/
theorem candidate_bound {fs : Word} {n : Nat} (hfs : inRange 0x45FA0000 0x483B8000 fs) (h1 : 1 ≤ n)
    (hn : n ≤ cntMax) :
    isFinite (div fs (ofInt n)) = true ∧ 0 ≤ value (div fs (ofInt n)) ∧ value (div fs (ofInt n)) ≤ 192000 := by
  have hffs := isFinite_of_inRange (by decide) (by decide) hfs
  obtain ⟨-, hlo, hhi⟩ := (inRange_iff_value (by decide) (by decide)).1 hfs
  have hlo' : 0 ≤ value 0x45FA0000 := value_nonneg_of_sign_false (by decide)
  rw [value_fsMax] at hhi
  have habs : ((n : Int)).natAbs ≤ 2 ^ 24 := hn
  have hval : value (ofInt n) = n := by rw [value_ofInt habs, Int.cast_natCast]
  have h1' : (1 : ℚ) ≤ n := by exact_mod_cast h1
  have hz : isZero (ofInt n) = false := by
    rw [Bool.eq_false_iff, Ne, isZero_iff_value, hval]; intro h0; rw [h0] at h1'; norm_num at h1'
  have hnear := nearestEven_div hffs (isFinite_ofInt habs) hz
  have hq0 : 0 ≤ value fs / value (ofInt n) := by rw [hval]; exact div_nonneg (by linarith) (by linarith)
  have hq1 : value fs / value (ofInt n) ≤ 192000 := by
    rw [hval]; exact (div_le_self (by linarith) h1').trans hhi
  refine ⟨isFinite_of_nearestEven hnear (abs_le.2 ⟨?_, ?_⟩), ?_, ?_⟩
  · norm_num; linarith
  · norm_num; linarith
  · rw [← value_zero]; exact hnear.le_value (by decide) (by rwa [value_zero])
  · rw [← value_fsMax]; exact hnear.value_le (by decide) (by rwa [value_fsMax])

/-- A bounded non-negative word times 2.0 or 0.5 is finite and not negative. -/
theorem scaled_inRange {k cand : Word} (hk : isFinite k = true) (hk0 : 0 ≤ value k) (hk2 : value k ≤ 2)
    (hc : isFinite cand = true) (hc0 : 0 ≤ value cand) (hc1 : value cand ≤ 192000) :
    inRange zero maxF (mul k cand) := by
  have hnear := nearestEven_mul hk hc
  have hq0 : 0 ≤ value k * value cand := mul_nonneg hk0 hc0
  have hq1 : value k * value cand ≤ 2 * 192000 := mul_le_mul hk2 hc1 hc0 (by norm_num)
  refine inRange_zero_maxF_iff.2 ⟨isFinite_of_nearestEven hnear (abs_le.2 ⟨?_, ?_⟩), ?_⟩
  · norm_num; linarith
  · norm_num; linarith
  · rw [← value_zero]; exact hnear.le_value (by decide) (by rwa [value_zero])

/-- R272 phase 4: the folded candidate is finite and not negative. -/
theorem zcFold_inRange (z : Zc) {cand : Word} (hc : isFinite cand = true) (hc0 : 0 ≤ value cand)
    (hc1 : value cand ≤ 192000) : inRange zero maxF (zcFold z cand) := by
  unfold zcFold
  dsimp only
  split_ifs
  · exact scaled_inRange (by decide) (by rw [value_half]; norm_num) (by rw [value_half]; norm_num) hc hc0 hc1
  · exact scaled_inRange (by decide) (by rw [value_two]; norm_num) (by rw [value_two]) hc hc0 hc1
  · exact inRange_zero_maxF_iff.2 ⟨hc, hc0⟩

/-- R272 phase 4: the lower jump bound `f * (1.0 - max_jump)` is at most `f`. -/
theorem jumpLower_le {f j : Word} (hf : inRange zero maxF f) (hj : inRange zero maxF j) :
    le (mul f (sub one j)) f = true := by
  obtain ⟨hff, hf0⟩ := inRange_zero_maxF_iff.1 hf
  obtain ⟨hfj, hj0⟩ := inRange_zero_maxF_iff.1 hj
  have hone : isFinite one = true := by decide
  have hsub1 : value (sub one j) ≤ 1 := by
    rw [← value_one]; exact (nearestEven_sub hone hfj).value_le hone (by linarith)
  have hmul := nearestEven_mul hff (isFinite_sub_of_nonneg hone hfj (by rw [value_one]; norm_num) hj0)
  rw [le_iff_value hmul.isNaN_eq_false (isNaN_of_isFinite hff)]
  exact hmul.value_le hff (mul_le_of_le_one_right hf0 hsub1)

/-- R272 phase 4: the upper jump bound `f * (1.0 + max_jump)` is not negative. -/
theorem zero_le_jumpUpper {f j : Word} (hf : inRange zero maxF f) (hj : inRange zero maxF j) :
    le zero (mul f (add one j)) = true := by
  obtain ⟨hff, hf0⟩ := inRange_zero_maxF_iff.1 hf
  obtain ⟨hfj, hj0⟩ := inRange_zero_maxF_iff.1 hj
  have hone : isFinite one = true := by decide
  have hjmax := isFinite_iff_abs_value.1 hfj
  have hadd := nearestEven_add hone hfj
  have hfadd : isFinite (add one j) = true := by
    refine hadd.isFinite_eq_true ?_
    rw [value_one, abs_of_nonneg (by linarith)]
    rw [abs_of_nonneg hj0] at hjmax
    norm_num at hjmax ⊢
    linarith
  have hadd0 : 0 ≤ value (add one j) := by
    rw [← value_zero]; exact hadd.le_value (by decide) (by rw [value_zero, value_one]; linarith)
  have hmul := nearestEven_mul hff hfadd
  rw [le_iff_value isNaN_zero hmul.isNaN_eq_false]
  exact hmul.le_value (by decide) (by rw [value_zero]; exact mul_nonneg hf0 hadd0)

/-- R272 phase 4: the jump limit leaves a candidate finite and not negative. -/
theorem zcJump_inRange {z : Zc} {cand : Word} (hf : inRange zero maxF z.f) (hj : inRange zero maxF z.maxJump)
    (hc : inRange zero maxF cand) : inRange zero maxF (zcJump z cand) := by
  obtain ⟨-, hfmax⟩ := id hf
  exact clamp_inRange_of_ends hc (le_trans' (jumpLower_le hf hj) hfmax) (zero_le_jumpUpper hf hj)

theorem zcTrack_ok {z : Zc} {cand : Word} (hr : TrackerRanges z) (hz : TrackerOk z) (hc : isFinite cand = true)
    (hc0 : 0 ≤ value cand) (hc1 : value cand ≤ 192000) : TrackerOk (zcTrack z cand) := by
  obtain ⟨hcnt, hhang, hf⟩ := hz
  unfold zcTrack
  split
  · exact ⟨hcnt, hhang, zcMove_inRange hf hr.fMin hr.fMax hr.smooth
      (zcJump_inRange hf hr.maxJump (zcFold_inRange z hc hc0 hc1))⟩
  · exact ⟨hcnt, hhang, hf⟩

theorem zcOnCross_ok {z : Zc} {fs : Word} (hr : TrackerRanges z) (hz : TrackerOk z) (h1 : 1 ≤ z.cnt)
    (hfs : inRange 0x45FA0000 0x483B8000 fs) (cross : Bool) : TrackerOk (zcOnCross z fs cross) := by
  obtain ⟨hcnt, hhang, hf⟩ := hz
  unfold zcOnCross
  split
  · obtain ⟨hc, hc0, hc1⟩ := candidate_bound hfs h1 hcnt
    have hz₁ : TrackerOk { z with cnt := 0 } := ⟨Nat.zero_le _, hhang, hf⟩
    dsimp only
    split
    · exact zcTrack_ok (TrackerRanges.congr (z := z) rfl hr) hz₁ hc hc0 hc1
    · exact hz₁
  · exact ⟨hcnt, hhang, hf⟩

theorem zcDrift_ok {z : Zc} (hr : TrackerRanges z) (hz : TrackerOk z) : TrackerOk (zcDrift z) := by
  obtain ⟨hcnt, hhang, hf⟩ := hz
  unfold zcDrift
  split
  · exact ⟨hcnt, hhang, hf⟩
  · exact ⟨hcnt, hhang, zcMove_inRange hf hr.fMin hr.fMax hr.drift hr.fIdle⟩

/-- R272: the five phases keep the tracker's counters in their ranges and its frequency finite and not negative. -/
theorem zcStep_ok {z : Zc} {fs : Word} (hr : TrackerRanges z) (hz : TrackerOk z)
    (hfs : inRange 0x45FA0000 0x483B8000 fs) (x env : Word) : TrackerOk (zcStep z fs x env) := by
  obtain ⟨hcount, h1⟩ := zcCount_ok (zcGate_ok hr hz env)
  obtain ⟨htrig, hcnt⟩ := zcTrigger_ok hcount x
  have hcross := zcOnCross_ok (hr.congr (by simp)) htrig (by rwa [hcnt]) hfs (zcCross (zcCount (zcGate z env)) x)
  exact zcDrift_ok (hr.congr (by simp)) hcross

end Sys2Proof.Machine

/-! SUPPORT. What the invariant of Safety.lean rests on: lists with one entry changed, the parameters of a state, STATUS. -/

namespace Sys2Proof.Machine

open F32

/-! ## One entry of a list replaced or changed in place -/

theorem bind_getElem?_set {l : List α} {i : Nat} {u u' : α} {f : α → Option β} (h : l[i]? = some u)
    (hf : f u' = f u) (j : Nat) : (l.set i u')[j]?.bind f = l[j]?.bind f := by
  rw [List.getElem?_set]
  split
  · rename_i hij
    subst hij
    rw [if_pos (List.getElem?_eq_some_iff.1 h).1, h]
    exact hf
  · rfl

theorem bind_getElem?_modify {l : List α} {g : α → α} {f : α → Option β} (hf : ∀ x, f (g x) = f x)
    (i j : Nat) : (l.modify i g)[j]?.bind f = l[j]?.bind f := by
  rw [getElem?_modify_ite]
  split
  · cases l[j]? <;> simp [hf]
  · rfl

theorem bind_getElem?_map {l : List α} {g : α → α} {f : α → Option β} (hf : ∀ x, f (g x) = f x) (j : Nat) :
    (l.map g)[j]?.bind f = l[j]?.bind f := by
  rw [List.getElem?_map]
  cases l[j]? <;> simp [hf]

theorem map_set_of_eq {l : List α} {i : Nat} {u u' : α} {f : α → β} (h : l[i]? = some u) (hf : f u' = f u) :
    (l.set i u').map f = l.map f := by
  apply List.ext_getElem?
  intro j
  rw [List.getElem?_map, List.getElem?_map, Option.map_eq_bind, Option.map_eq_bind]
  exact bind_getElem?_set (f := fun x => some (f x)) h (congrArg some hf) j

theorem map_modify_of_eq {l : List α} {g : α → α} {f : α → β} (hf : ∀ x, f (g x) = f x) (i : Nat) :
    (l.modify i g).map f = l.map f := by
  apply List.ext_getElem?
  intro j
  rw [List.getElem?_map, List.getElem?_map, Option.map_eq_bind, Option.map_eq_bind]
  exact bind_getElem?_modify (f := fun x => some (f x)) (fun x => congrArg some (hf x)) i j

theorem forall_mem_set {l : List α} {i : Nat} {u : α} {P : α → Prop} (h : ∀ x ∈ l, P x) (hu : P u) :
    ∀ x ∈ l.set i u, P x := fun x hx =>
  (List.mem_or_eq_of_mem_set hx).elim (h x) fun e => e ▸ hu

theorem forall_mem_modify {l : List α} {i : Nat} {g : α → α} {P : α → Prop} (h : ∀ x ∈ l, P x)
    (hg : ∀ x ∈ l, P (g x)) : ∀ x ∈ l.modify i g, P x := by
  intro x hx
  obtain ⟨j, hj⟩ := List.mem_iff_getElem?.1 hx
  rw [getElem?_modify_ite] at hj
  split at hj
  · obtain ⟨y, hy, rfl⟩ := Option.map_eq_some_iff.1 hj
    exact hg y (List.mem_of_getElem? hy)
  · exact h x (List.mem_of_getElem? hj)

/-! ## Parameters of a state -/

/-- The configuration and every parameter are the same. -/
structure ParamsKept (s t : State) : Prop where
  config : t.config = s.config
  param : ∀ u i idx, t.param? u i idx = s.param? u i idx

theorem count_of_config {s t : State} (h : t.config = s.config) (u : UnitName) : t.count u = s.count u := by
  have hdl := congrArg (fun c => c.dlCap.length) h
  have hgp := congrArg (fun c => c.gpCap.length) h
  simp only [State.config, List.length_map] at hdl hgp
  cases u
  case dl => exact hdl
  case gp => exact hgp
  case global | all => rfl
  case bq => exact congrArg Config.nBq h
  case lp => exact congrArg Config.nLp h
  case hp => exact congrArg Config.nHp h
  case sc => exact congrArg Config.nSc h
  case dc => exact congrArg Config.nDc h
  case li => exact congrArg Config.nLi h
  case ds => exact congrArg Config.nDs h
  case xo => exact congrArg Config.nXo h
  case md => exact congrArg Config.nMd h
  case nco => exact congrArg Config.nNco h
  case zc => exact congrArg Config.nZc h
  case env => exact congrArg Config.nEnv h

/-- R40: the ranges depend on the configuration alone. -/
theorem classRange_of_config {s t : State} (h : t.config = s.config) (i : Nat) (c : ParamClass) :
    t.classRange i c = s.classRange i c := by
  have hdl := count_of_config h .dl
  have hgp := congrArg (fun c => c.gpCap[i]?) h
  simp only [State.config, List.getElem?_map] at hgp
  rw [classRange_eq_legalRange, classRange_eq_legalRange, show t.dl.length = s.dl.length from hdl, hgp]

theorem paramOkAt_iff {s : State} {u : UnitName} {i idx : Nat} :
    paramOkAt s u i idx = true ↔
      ∃ v p, s.param? u i idx = some v ∧ (paramTable u)[idx]? = some p ∧ ParamOk s i p.2 v := by
  unfold paramOkAt
  split
  · rename_i v p hv hp
    exact ⟨fun h => ⟨v, p, hv, hp, of_decide_eq_true h⟩, fun ⟨v', p', hv', hp', hok⟩ => by
      cases hv.symm.trans hv'
      cases hp.symm.trans hp'
      exact decide_eq_true hok⟩
  · rename_i hno
    constructor
    · intro h; cases h
    · rintro ⟨v, p, hv, hp, -⟩
      exact absurd hp (hno v p hv)

theorem ParamsKept.paramsOk {s t : State} (hk : ParamsKept s t) (h : ParamsOk s) : ParamsOk t := by
  intro u hu i hi idx hidx
  rw [count_of_config hk.config] at hi
  obtain ⟨v, p, hv, hp, hok⟩ := paramOkAt_iff.1 (h u hu i hi idx hidx)
  refine paramOkAt_iff.2 ⟨v, p, by rw [hk.param, hv], hp, ?_⟩
  unfold ParamOk
  rw [classRange_of_config hk.config]
  exact hok

theorem ParamsKept.shapeOk {s t : State} (hk : ParamsKept s t) (h : ShapeOk s) : ShapeOk t := by
  unfold ShapeOk
  rw [hk.config]
  exact h

theorem count_of_param {s : State} {u : UnitName} {i idx : Nat} {v : Word} (h : s.param? u i idx = some v) :
    u ∈ unitNames ∧ i < s.count u := by
  have hb {α : Type} {l : List α} {f : α → Option Word} (hl : l[i]?.bind f = some v) : i < l.length := by
    obtain ⟨x, hx, -⟩ := Option.bind_eq_some_iff.1 hl
    exact (List.getElem?_eq_some_iff.1 hx).1
  cases u
  case all => cases h
  case global =>
    simp only [State.param?] at h
    split at h
    · rename_i h0
      exact ⟨by simp [unitNames], by rw [h0.1]; exact Nat.one_pos⟩
    · cases h
  all_goals exact ⟨by simp [unitNames], hb h⟩

/-- A parameter that exists is legal (R40 to R42). -/
theorem paramOk_of_paramsOk {s : State} (h : ParamsOk s) {u : UnitName} {i idx : Nat} {v : Word} {name : String}
    {c : ParamClass} (hv : s.param? u i idx = some v) (hc : (paramTable u)[idx]? = some (name, c)) :
    ParamOk s i c v := by
  obtain ⟨hu, hi⟩ := count_of_param hv
  have hidx : idx < paramCount u := (List.getElem?_eq_some_iff.1 hc).1
  obtain ⟨v', p, hv', hp, hok⟩ := paramOkAt_iff.1 (h u hu i hi idx hidx)
  rw [hv] at hv'
  rw [hc] at hp
  cases hv'
  cases hp
  exact hok

/-- Where FS and all banks are as before, so are the configuration and the parameters. -/
theorem paramsKept_of_banksKept {s t : State} (h : banksKept [] s t) : ParamsKept s t := by
  simp only [banksKept, List.not_mem_nil, not_false_eq_true, forall_const] at h
  obtain ⟨hfs, hbq, hlp, hhp, hsc, hdl, hdc, hli, hds, hxo, hmd, hnco, hzc, henv, hgp⟩ := h
  refine ⟨by simp only [State.config, *], fun u i idx => ?_⟩
  cases u <;> simp only [State.param?, *]

/-! ## STATUS -/

/-- The flags a command sets beside ILL (10_state.md R34). -/
def flagMasks : List Word := [nvMask, oclampMask, pclampMask, pnanMask]

/-- They are bits of STATUS outside ILL and CAUSE. -/
theorem flagMasks_fields :
    ∀ m ∈ flagMasks, m &&& ~~~statusMask = 0 ∧ m.extractLsb' 8 4 = 0#4 ∧ m.getLsbD 0 = false := by
  simp only [flagMasks, List.forall_mem_cons, List.not_mem_nil, false_implies, implies_true, and_true]
  decide

theorem statusOk_setFlags {s : State} (h : StatusOk s) {m : Word} (hm : m ∈ flagMasks) : StatusOk (s.setFlags m) := by
  obtain ⟨hres, hcause, hill⟩ := h
  obtain ⟨hmres, hmcause, hmill⟩ := flagMasks_fields m hm
  have hres' : (s.setFlags m).status &&& ~~~statusMask = 0 := by
    rw [setFlags_status, BitVec.and_comm, BitVec.and_or_distrib_left, BitVec.and_comm _ s.status, hres,
      BitVec.and_comm _ m, hmres]
    rfl
  have hcause' : (s.setFlags m).cause = s.cause := by
    unfold State.cause
    rw [setFlags_status, BitVec.extractLsb'_or, hmcause, BitVec.or_zero]
  have hill' : (s.setFlags m).ill = s.ill := by
    unfold State.ill
    rw [setFlags_status, BitVec.getLsbD_or, hmill, Bool.or_false]
  rw [StatusOk, hcause', hill']
  exact ⟨hres', hcause, hill⟩

theorem codeOfCause_range (c : Cause) : (codeOfCause c).toNat ≤ 6 ∧ codeOfCause c ≠ 0 := by cases c <;> decide

/-- R322: a rejection leaves STATUS with ILL and the code of a cause. -/
theorem statusOk_reject {s : State} (h : StatusOk s) (c : Cause) : StatusOk (s.reject c) := by
  obtain ⟨hres, hcause, hill⟩ := h
  obtain ⟨hill', hcause', hrest, -⟩ := reject_spec s c
  obtain ⟨hcode, hcode0⟩ := codeOfCause_range c
  have hmask : (0xFFFFF0FE : Word) &&& ~~~statusMask = ~~~statusMask := by decide
  refine ⟨?_, ?_, ?_⟩
  · rw [← hmask, ← BitVec.and_assoc, hrest, BitVec.and_assoc, hmask, hres]
  · rw [State.cause, hcause']
    split
    · exact hcause
    · exact hcode
  · rw [State.ill, State.cause, hill', hcause']
    split
    · rename_i hs
      rw [State.ill, hs] at hill
      exact hill
    · exact ⟨fun h => (Bool.noConfusion h), fun h => absurd h hcode0⟩

/-- R35: a host write leaves STATUS legal: ILL and CAUSE are cleared together. -/
theorem statusOk_writeStatus {s : State} (h : StatusOk s) (v : Word) : StatusOk (s.writeStatus v) := by
  obtain ⟨hres, hcause, hill⟩ := h
  have hres' : (s.writeStatus v).status &&& ~~~statusMask = 0 := by
    rw [writeStatus_status]
    generalize ~~~(v &&& stickyMask) = a
    generalize (if v.getLsbD 0 then ~~~causeMask else BitVec.allOnes 32) = b
    have hcomm : s.status &&& a &&& b &&& ~~~statusMask = s.status &&& ~~~statusMask &&& (a &&& b) := by ac_rfl
    rw [hcomm, hres]
    simp
  cases hv : v.getLsbD 0
  · have hcause' : (s.writeStatus v).cause = s.cause := by
      unfold State.cause
      rw [writeStatus_status, hv]
      ext i hi
      interval_cases i <;> simp [stickyMask, BitVec.getElem_extractLsb']
    have hill' : (s.writeStatus v).ill = s.ill := by
      unfold State.ill
      rw [writeStatus_status, BitVec.getLsbD_and, BitVec.getLsbD_and, BitVec.getLsbD_not, BitVec.getLsbD_and, hv]
      simp
    rw [StatusOk, hcause', hill']
    exact ⟨hres', hcause, hill⟩
  · have hcause' : (s.writeStatus v).cause = 0 := by
      unfold State.cause
      rw [writeStatus_status, hv]
      ext i hi
      interval_cases i <;> simp [stickyMask, causeMask, BitVec.getElem_extractLsb']
    have hill' : (s.writeStatus v).ill = false := by
      unfold State.ill
      rw [writeStatus_status, BitVec.getLsbD_and, BitVec.getLsbD_and, BitVec.getLsbD_not, BitVec.getLsbD_and, hv]
      simp [stickyMask]
    rw [StatusOk, hcause', hill']
    exact ⟨hres', by decide, by decide⟩

end Sys2Proof.Machine

/-! SUPPORT. The invariant of the state under each state operation. -/

namespace Sys2Proof.Machine

open F32

/-! ## The invariant under the operations that leave the banks alone -/

theorem stateOk_of_banksKept {s t : State} (h : StateOk s) (hb : banksKept [] s t) (hst : StatusOk t) : StateOk t := by
  obtain ⟨hshape, -, hbuf, hparam, hphase, htrack, henv⟩ := h
  have hk := paramsKept_of_banksKept hb
  simp only [banksKept, List.not_mem_nil, not_false_eq_true, forall_const] at hb
  obtain ⟨-, -, -, -, -, hdl, -, -, -, -, -, hnco, hzc, henv', hgp⟩ := hb
  refine ⟨hk.shapeOk hshape, hst, ?_, hk.paramsOk hparam, ?_, ?_, ?_⟩
  · rw [BuffersOk, hdl, hgp]; exact hbuf
  · rw [PhasesOk, hnco, hgp]; exact hphase
  · rw [TrackersOk, hzc]; exact htrack
  · rw [EnvelopesOk, henv']; exact henv

theorem statusOk_of_stateOk {s : State} (h : StateOk s) : StatusOk s := by
  obtain ⟨-, hstatus, -⟩ := h
  exact hstatus

theorem stateOk_setFlags {s : State} (h : StateOk s) {m : Word} (hm : m ∈ flagMasks) : StateOk (s.setFlags m) :=
  stateOk_of_banksKept h (by simp [banksKept]) (statusOk_setFlags (statusOk_of_stateOk h) hm)

theorem stateOk_setFlagIf {s : State} (h : StateOk s) (c : Bool) {m : Word} (hm : m ∈ flagMasks) :
    StateOk (s.setFlagIf c m) := by
  cases c
  · exact h
  · exact stateOk_setFlags h hm

theorem stateOk_stickyNV {s : State} (h : StateOk s) (xs : List Word) : StateOk (s.stickyNV xs) := by
  unfold State.stickyNV
  split
  · exact stateOk_setFlags h (by simp [flagMasks])
  · exact h

theorem stateOk_reject {s : State} (h : StateOk s) (c : Cause) : StateOk (s.reject c) :=
  stateOk_of_banksKept h (by simp [banksKept]) (statusOk_reject (statusOk_of_stateOk h) c)

theorem stateOk_writeStatus {s : State} (h : StateOk s) (v : Word) : StateOk (s.writeStatus v) :=
  stateOk_of_banksKept h (by simp [banksKept]) (statusOk_writeStatus (statusOk_of_stateOk h) v)

theorem stateOk_writeReg {s : State} (h : StateOk s) (r : Reg) (v : Word) : StateOk (s.writeReg r v) :=
  stateOk_of_banksKept h (by simp [banksKept]) (statusOk_of_stateOk h)

theorem stateOk_result {s : State} (h : StateOk s) (nv : List Word) (rd : Reg) (y : Word) :
    StateOk (s.result nv rd y) :=
  stateOk_writeReg (stateOk_stickyNV h nv) rd y

theorem stateOk_writeSample {s : State} (h : StateOk s) (rd : Reg) (v : Word) : StateOk (s.writeSample rd v) :=
  stateOk_writeReg (stateOk_setFlagIf h _ (by simp [flagMasks])) rd _

/-! ## The invariant under the new bank of a step command -/

/-- What the invariant says beyond STATUS and the parameters concerns DL, GP, NCO, ZC and ENV alone. -/
theorem stateOk_of_paramsKept {s t : State} (h : StateOk s) (hk : ParamsKept s t) (hst : t.status = s.status)
    (hbuf : BuffersOk t) (hphase : PhasesOk t) (htrack : TrackersOk t) (henv : EnvelopesOk t) : StateOk t := by
  obtain ⟨hshape, hstatus, -, hparam, -, -, -⟩ := h
  refine ⟨hk.shapeOk hshape, ?_, hbuf, hk.paramsOk hparam, hphase, htrack, henv⟩
  rw [StatusOk, State.cause, State.ill, hst]
  exact hstatus

/-- Outside the units `us` a parameter reads as before. -/
theorem param_of_banksKept {s t : State} {us : List UnitName} (hb : banksKept us s t) {v : UnitName} (hv : v ∉ us)
    (i idx : Nat) : t.param? v i idx = s.param? v i idx := by
  obtain ⟨hfs, hbq, hlp, hhp, hsc, hdl, hdc, hli, hds, hxo, hmd, hnco, hzc, henv, hgp⟩ := hb
  cases v <;> simp only [State.param?, *, not_false_eq_true]

/-- A change of one unit's banks keeps the parameters if it keeps that unit's. -/
theorem paramsKept_of_unit {s t : State} {u : UnitName} (hb : banksKept [u] s t) (hc : t.config = s.config)
    (hown : ∀ i idx, t.param? u i idx = s.param? u i idx) : ParamsKept s t := by
  refine ⟨hc, fun v i idx => ?_⟩
  by_cases hv : v = u
  · rw [hv]; exact hown i idx
  · exact param_of_banksKept hb (by simpa using hv) i idx

/-- A change of another unit's banks keeps the invariant if it keeps that unit's parameters. -/
theorem stateOk_of_quietUnit {s t : State} (h : StateOk s) {u : UnitName}
    (hu : .dl ∉ [u] ∧ .gp ∉ [u] ∧ .nco ∉ [u] ∧ .zc ∉ [u] ∧ .env ∉ [u]) (hb : banksKept [u] s t)
    (hst : t.status = s.status) (hc : t.config = s.config) (hown : ∀ i idx, t.param? u i idx = s.param? u i idx) :
    StateOk t := by
  have hk := paramsKept_of_unit hb hc hown
  obtain ⟨-, -, hbuf, -, hphase, htrack, henv⟩ := id h
  obtain ⟨hdl, hgp, hnco, hzc, henv'⟩ := hu
  obtain ⟨-, -, -, -, -, bdl, -, -, -, -, -, bnco, bzc, benv, bgp⟩ := hb
  refine stateOk_of_paramsKept h hk hst ?_ ?_ ?_ ?_
  · rw [BuffersOk, bdl hdl, bgp hgp]; exact hbuf
  · rw [PhasesOk, bnco hnco, bgp hgp]; exact hphase
  · rw [TrackersOk, bzc hzc]; exact htrack
  · rw [EnvelopesOk, benv henv']; exact henv

section Banks

variable {s : State} {i : InstNo} (h : StateOk s)
include h

theorem stateOk_setBq {u u' : Bq} (hu : s.bq[i.toNat]? = some u) (hp : paramBq u' = paramBq u) :
    StateOk (s.setBq i u') :=
  stateOk_of_quietUnit h (u := .bq) (by decide) (by simp [banksKept]) rfl (by simp [State.config])
    fun j idx => bind_getElem?_set (f := fun x => paramBq x idx) hu (congrFun hp idx) j

theorem stateOk_setLp {u u' : Lp} (hu : s.lp[i.toNat]? = some u) (hp : paramLp u' = paramLp u) :
    StateOk (s.setLp i u') :=
  stateOk_of_quietUnit h (u := .lp) (by decide) (by simp [banksKept]) rfl (by simp [State.config])
    fun j idx => bind_getElem?_set (f := fun x => paramLp x idx) hu (congrFun hp idx) j

theorem stateOk_setHp {u u' : Hp} (hu : s.hp[i.toNat]? = some u) (hp : paramHp u' = paramHp u) :
    StateOk (s.setHp i u') :=
  stateOk_of_quietUnit h (u := .hp) (by decide) (by simp [banksKept]) rfl (by simp [State.config])
    fun j idx => bind_getElem?_set (f := fun x => paramHp x idx) hu (congrFun hp idx) j

theorem stateOk_setDc {u u' : Dc} (hu : s.dc[i.toNat]? = some u) (hp : paramDc u' = paramDc u) :
    StateOk (s.setDc i u') :=
  stateOk_of_quietUnit h (u := .dc) (by decide) (by simp [banksKept]) rfl (by simp [State.config])
    fun j idx => bind_getElem?_set (f := fun x => paramDc x idx) hu (congrFun hp idx) j

theorem stateOk_setLi {u u' : Li} (hu : s.li[i.toNat]? = some u) (hp : paramLi u' = paramLi u) :
    StateOk (s.setLi i u') :=
  stateOk_of_quietUnit h (u := .li) (by decide) (by simp [banksKept]) rfl (by simp [State.config])
    fun j idx => bind_getElem?_set (f := fun x => paramLi x idx) hu (congrFun hp idx) j

theorem stateOk_setDs {u u' : Ds} (hu : s.ds[i.toNat]? = some u) (hp : paramDs u' = paramDs u) :
    StateOk (s.setDs i u') :=
  stateOk_of_quietUnit h (u := .ds) (by decide) (by simp [banksKept]) rfl (by simp [State.config])
    fun j idx => bind_getElem?_set (f := fun x => paramDs x idx) hu (congrFun hp idx) j

theorem stateOk_setXo {u u' : Xo} (hu : s.xo[i.toNat]? = some u) (hp : paramXo u' = paramXo u) :
    StateOk (s.setXo i u') :=
  stateOk_of_quietUnit h (u := .xo) (by decide) (by simp [banksKept]) rfl (by simp [State.config])
    fun j idx => bind_getElem?_set (f := fun x => paramXo x idx) hu (congrFun hp idx) j

theorem stateOk_setDl {u u' : Dl} (hu : s.dl[i.toNat]? = some u) (hp : paramDl u' = paramDl u)
    (hcap : u'.ring.cap = u.ring.cap) (hring : RingOk u'.ring) : StateOk (s.setDl i u') := by
  have hown (j idx : Nat) : (s.setDl i u').param? .dl j idx = s.param? .dl j idx :=
    bind_getElem?_set (f := fun x => paramDl x idx) hu (congrFun hp idx) j
  have hk : ParamsKept s (s.setDl i u') :=
    paramsKept_of_unit (by simp [banksKept]) (by simp [State.config, map_set_of_eq (f := fun x => x.ring.cap) hu hcap])
      hown
  obtain ⟨-, -, ⟨hdl, hgp⟩, -, hphase, htrack, henv⟩ := id h
  exact stateOk_of_paramsKept h hk rfl ⟨forall_mem_set hdl hring, hgp⟩ hphase htrack henv

theorem stateOk_setNco {u u' : Nco} (hu : s.nco[i.toNat]? = some u) (hp : paramNco u' = paramNco u)
    (hph : isNaN u'.ph = true ∨ inTurn u'.ph) : StateOk (s.setNco i u') := by
  have hown (j idx : Nat) : (s.setNco i u').param? .nco j idx = s.param? .nco j idx :=
    bind_getElem?_set (f := fun x => paramNco x idx) hu (congrFun hp idx) j
  have hk : ParamsKept s (s.setNco i u') :=
    paramsKept_of_unit (by simp [banksKept]) (by simp [State.config]) hown
  obtain ⟨-, -, hbuf, -, ⟨hnco, hgp⟩, htrack, henv⟩ := id h
  exact stateOk_of_paramsKept h hk rfl hbuf ⟨forall_mem_set hnco hph, hgp⟩ htrack henv

theorem stateOk_setZc {u u' : Zc} (hu : s.zc[i.toNat]? = some u) (hp : paramZc u' = paramZc u)
    (hz : TrackerOk u') : StateOk (s.setZc i u') := by
  have hown (j idx : Nat) : (s.setZc i u').param? .zc j idx = s.param? .zc j idx :=
    bind_getElem?_set (f := fun x => paramZc x idx) hu (congrFun hp idx) j
  have hk : ParamsKept s (s.setZc i u') :=
    paramsKept_of_unit (by simp [banksKept]) (by simp [State.config]) hown
  obtain ⟨-, -, hbuf, -, hphase, htrack, henv⟩ := id h
  exact stateOk_of_paramsKept h hk rfl hbuf hphase (forall_mem_set htrack hz) henv

theorem stateOk_setEnv {u u' : Env} (hu : s.env[i.toNat]? = some u) (hp : paramEnv u' = paramEnv u)
    (he : NanOrNonneg u'.e) : StateOk (s.setEnv i u') := by
  have hown (j idx : Nat) : (s.setEnv i u').param? .env j idx = s.param? .env j idx :=
    bind_getElem?_set (f := fun x => paramEnv x idx) hu (congrFun hp idx) j
  have hk : ParamsKept s (s.setEnv i u') :=
    paramsKept_of_unit (by simp [banksKept]) (by simp [State.config]) hown
  obtain ⟨-, -, hbuf, -, hphase, htrack, henv⟩ := id h
  exact stateOk_of_paramsKept h hk rfl hbuf hphase htrack (forall_mem_set henv he)

theorem stateOk_setGp {u u' : Gp} (hu : s.gp[i.toNat]? = some u) (hp : paramGp u' = paramGp u)
    (hcap : u'.ring.cap = u.ring.cap) (hring : RingOk u'.ring)
    (hph : inTurn u'.p0 ∧ inTurn u'.p1 ∧ inTurn u'.p2 ∧ inTurn u'.p3) : StateOk (s.setGp i u') := by
  have hown (j idx : Nat) : (s.setGp i u').param? .gp j idx = s.param? .gp j idx :=
    bind_getElem?_set (f := fun x => paramGp x idx) hu (congrFun hp idx) j
  have hk : ParamsKept s (s.setGp i u') :=
    paramsKept_of_unit (by simp [banksKept]) (by simp [State.config, map_set_of_eq (f := fun x => x.ring.cap) hu hcap])
      hown
  obtain ⟨-, -, ⟨hdl, hgp⟩, -, ⟨hnco, hgp'⟩, htrack, henv⟩ := id h
  exact stateOk_of_paramsKept h hk rfl ⟨hdl, forall_mem_set hgp hring⟩ ⟨hnco, forall_mem_set hgp' hph⟩ htrack
    henv

end Banks

/-! ## The ranges of one bank's parameters -/

theorem trackerRanges_of_paramsOk {s : State} (h : ParamsOk s) {z : Zc} (hz : z ∈ s.zc) : TrackerRanges z := by
  obtain ⟨i, hi⟩ := List.mem_iff_getElem?.1 hz
  have hparam (idx : Nat) : s.param? .zc i idx = paramZc z idx := by rw [State.param?, hi]; rfl
  constructor
  · exact (paramOk_of_paramsOk h (hparam 2) rfl).1
  · exact (paramOk_of_paramsOk h (hparam 4) rfl).1
  · exact (paramOk_of_paramsOk h (hparam 5) rfl).1
  · exact (paramOk_of_paramsOk h (hparam 7) rfl).1
  · exact (paramOk_of_paramsOk h (hparam 8) rfl).1
  · exact (paramOk_of_paramsOk h (hparam 9) rfl).1
  · exact (paramOk_of_paramsOk h (hparam 10) rfl).1

theorem envRanges_of_paramsOk {s : State} (h : ParamsOk s) {i : Nat} {u : Env} (hu : s.env[i]? = some u) :
    inRange zero one u.att ∧ inRange zero one u.rel := by
  have hparam (idx : Nat) : s.param? .env i idx = paramEnv u idx := by rw [State.param?, hu]; rfl
  exact ⟨(paramOk_of_paramsOk h (hparam 0) rfl).1, (paramOk_of_paramsOk h (hparam 1) rfl).1⟩

/-- FS is in its range (R40, class FS). -/
theorem fsRange_of_paramsOk {s : State} (h : ParamsOk s) : inRange 0x45FA0000 0x483B8000 s.fs :=
  (paramOk_of_paramsOk h (u := .global) (i := 0) (idx := 0) rfl rfl).1

/-- R8: the capacity of an admitted GP buffer. -/
theorem gpCap_of_shapeOk {s : State} (h : ShapeOk s) {u : Gp} (hu : u ∈ s.gp) :
    4 ≤ u.ring.cap ∧ u.ring.cap ≤ 2 ^ 24 := by
  obtain ⟨-, -, -, -, -, -, -, -, -, -, -, -, -, -, -, hgp⟩ := h
  exact hgp _ (List.mem_map_of_mem hu)

theorem gpRanges_of_stateOk {s : State} (hs : ShapeOk s) (h : ParamsOk s) {i : Nat} {u : Gp} (hu : s.gp[i]? = some u) :
    inRange zero maxF u.ratio ∧ isFinite u.glen = true ∧ 2 ≤ value u.glen := by
  obtain ⟨hcap, hcap'⟩ := gpCap_of_shapeOk hs (List.mem_of_getElem? hu)
  have hparam (idx : Nat) : s.param? .gp i idx = paramGp u idx := by rw [State.param?, hu]; rfl
  obtain ⟨hratio, -⟩ := paramOk_of_paramsOk h (hparam 0) rfl
  obtain ⟨hglen, -⟩ := paramOk_of_paramsOk h (hparam 1) rfl
  rw [classRange_eq_legalRange, hu] at hglen
  have hmax : isFinite (ofInt ((u.ring.cap : Int) - 2)) = true := isFinite_ofInt (by omega)
  have htwo : isFinite two = true := by decide
  obtain ⟨-, hlo, -⟩ := (inRange_iff_value (isNaN_of_isFinite htwo) (isNaN_of_isFinite hmax)).1 hglen
  rw [value_two] at hlo
  exact ⟨hratio, isFinite_of_inRange htwo hmax hglen, hlo⟩

/-! ## Resets (R350, R351) -/

theorem resetZc_ok {z : Zc} (hr : TrackerRanges z) : TrackerOk (resetZc z) :=
  ⟨Nat.zero_le _, Nat.zero_le _, hr.fIdle⟩

theorem resetGp_phases (u : Gp) :
    inTurn (resetGp u).p0 ∧ inTurn (resetGp u).p1 ∧ inTurn (resetGp u).p2 ∧ inTurn (resetGp u).p3 := by
  simp only [resetGp]
  decide

theorem resetNco_phase (u : Nco) : isNaN (resetNco u).ph = true ∨ inTurn (resetNco u).ph := by
  simp only [resetNco]
  decide

theorem resetEnv_level (u : Env) : NanOrNonneg (resetEnv u).e := by
  simp only [resetEnv]
  decide

theorem resetRing_keeps_ok {b : Ring} (h : RingOk b) : RingOk (resetRing b) := resetRing_ok (Nat.zero_lt_of_lt h.1)

/-- A reset changes no parameter and no capacity. -/
theorem paramsKept_resetInstance (s : State) (u : UnitName) (i : Nat) : ParamsKept s (s.resetInstance u i) := by
  obtain ⟨-, -, hb, -⟩ := resetInstance_frame s u i
  refine paramsKept_of_unit hb ?_ fun j idx => ?_
  · cases u
    case dl =>
      have hcap := map_modify_of_eq (l := s.dl) (g := resetDl) (f := fun x => x.ring.cap) (fun _ => rfl) i
      simp [State.resetInstance, State.config, hcap]
    case gp =>
      have hcap := map_modify_of_eq (l := s.gp) (g := resetGp) (f := fun x => x.ring.cap) (fun _ => rfl) i
      simp [State.resetInstance, State.config, hcap]
    all_goals simp [State.resetInstance, State.config]
  · cases u
    case global | all => rfl
    all_goals exact bind_getElem?_modify (by intro; rfl) i j

theorem stateOk_resetInstance {s : State} (h : StateOk s) (u : UnitName) (i : Nat) : StateOk (s.resetInstance u i) := by
  obtain ⟨-, -, ⟨hdl, hgp⟩, hparam, ⟨hnco, hgp'⟩, htrack, henv⟩ := id h
  refine stateOk_of_paramsKept h (paramsKept_resetInstance s u i) (resetInstance_status s u i) ?_ ?_ ?_ ?_
  · cases u
    case dl => exact ⟨forall_mem_modify hdl fun x hx => resetRing_keeps_ok (hdl x hx), hgp⟩
    case gp => exact ⟨hdl, forall_mem_modify hgp fun x hx => resetRing_keeps_ok (hgp x hx)⟩
    all_goals exact ⟨hdl, hgp⟩
  · cases u
    case nco => exact ⟨forall_mem_modify hnco fun x _ => resetNco_phase x, hgp'⟩
    case gp => exact ⟨hnco, forall_mem_modify hgp' fun x _ => resetGp_phases x⟩
    all_goals exact ⟨hnco, hgp'⟩
  · cases u
    case zc => exact forall_mem_modify htrack fun z hz => resetZc_ok (trackerRanges_of_paramsOk hparam hz)
    all_goals exact htrack
  · cases u
    case env => exact forall_mem_modify henv fun x _ => resetEnv_level x
    all_goals exact henv

theorem paramsKept_resetAll (s : State) : ParamsKept s s.resetAll := by
  refine ⟨by simp [State.config, Function.comp_def, resetDl, resetGp], fun v j idx => ?_⟩
  cases v
  case global | all => rfl
  all_goals exact bind_getElem?_map (by intro; rfl) j

theorem stateOk_resetAll {s : State} (h : StateOk s) : StateOk s.resetAll := by
  obtain ⟨-, -, ⟨hdl, hgp⟩, hparam, -, -, -⟩ := id h
  exact stateOk_of_paramsKept h (paramsKept_resetAll s) rfl
    ⟨List.forall_mem_map.2 fun x hx => resetRing_keeps_ok (hdl x hx),
      List.forall_mem_map.2 fun x hx => resetRing_keeps_ok (hgp x hx)⟩
    ⟨List.forall_mem_map.2 fun x _ => resetNco_phase x, List.forall_mem_map.2 fun x _ => resetGp_phases x⟩
    (List.forall_mem_map.2 fun z hz => resetZc_ok (trackerRanges_of_paramsOk hparam hz))
    (List.forall_mem_map.2 fun x _ => resetEnv_level x)

end Sys2Proof.Machine

/-! SUPPORT. The invariant under a parameter write (10_state.md R41, R42). -/

namespace Sys2Proof.Machine

open F32

/-! ## What a parameter write leaves -/

theorem bind_getElem?_modify_other {l : List α} {g : α → α} {f : α → Option β} {i j : Nat}
    (h : j ≠ i ∨ ∀ x, f (g x) = f x) : (l.modify i g)[j]?.bind f = l[j]?.bind f := by
  rcases h with h | h
  · rw [getElem?_modify_ite, if_neg (Ne.symm h)]
  · exact bind_getElem?_modify h i j

/-- A parameter write leaves every other parameter of the unit as it was. -/
theorem param_setParam_other {s : State} {u : UnitName} {i j idx idx' : Nat} {v : Word} (h : j ≠ i ∨ idx' ≠ idx) :
    (s.setParam u i idx v).param? u j idx' = s.param? u j idx' := by
  cases u
  case all => rfl
  case global =>
    simp only [State.setParam]
    split
    · simp only [State.param?]
      rw [if_neg (by omega), if_neg (by omega)]
    · rfl
  all_goals
    refine bind_getElem?_modify_other (h.imp_right fun hne x => ?_)
    simp only [setParamBq, setParamLp, setParamHp, setParamSc, setParamDl, setParamDc, setParamLi, setParamDs,
      setParamXo, setParamMd, setParamNco, setParamZc, setParamEnv, setParamGp]
  all_goals
    split <;>
      simp only [paramBq, paramLp, paramHp, paramSc, paramDc, paramDs, paramXo, paramMd, paramNco, paramZc, paramEnv,
        paramGp] <;>
      split <;> first | rfl | exact absurd rfl hne

theorem setParam_config (s : State) (u : UnitName) (i idx : Nat) (v : Word) :
    (s.setParam u i idx v).config = s.config := by
  have hdl (x : Dl) : (setParamDl x v idx).ring.cap = x.ring.cap := rfl
  have hgp (x : Gp) : (setParamGp x v idx).ring.cap = x.ring.cap := by unfold setParamGp; split <;> rfl
  cases u
  case global => simp only [State.setParam]; split <;> rfl
  case all => rfl
  case dl =>
    have hcap := map_modify_of_eq (l := s.dl) (g := fun x => setParamDl x v idx) (f := fun x => x.ring.cap) hdl i
    simp [State.setParam, State.config, hcap]
  case gp =>
    have hcap := map_modify_of_eq (l := s.gp) (g := fun x => setParamGp x v idx) (f := fun x => x.ring.cap) hgp i
    simp [State.setParam, State.config, hcap]
  all_goals simp [State.setParam, State.config]

/-- Storing a legal value keeps every parameter legal. -/
theorem paramsOk_setParam {s : State} (h : ParamsOk s) {u : UnitName} {i idx : Nat} {v : Word} {name : String}
    {c : ParamClass} (hc : (paramTable u)[idx]? = some (name, c)) (hv : ParamOk s i c v) :
    ParamsOk (s.setParam u i idx v) := by
  have hconf := setParam_config s u i idx v
  obtain ⟨-, -, hb, -⟩ := setParam_frame s u i idx v
  intro u' hu' j hj idx' hidx'
  rw [count_of_config hconf] at hj
  obtain ⟨w, p, hw, hp, hok⟩ := paramOkAt_iff.1 (h u' hu' j hj idx' hidx')
  by_cases hu : u' = u
  · subst hu
    by_cases hsame : j = i ∧ idx' = idx
    · obtain ⟨rfl, rfl⟩ := hsame
      refine paramOkAt_iff.2 ⟨v, (name, c), param_setParam_same hw, hc, ?_⟩
      unfold ParamOk
      rw [classRange_of_config hconf]
      exact hv
    · refine paramOkAt_iff.2 ⟨w, p, by rw [param_setParam_other (by omega), hw], hp, ?_⟩
      unfold ParamOk
      rw [classRange_of_config hconf]
      exact hok
  · refine paramOkAt_iff.2 ⟨w, p, by rw [param_of_banksKept hb (by simpa using hu), hw], hp, ?_⟩
    unfold ParamOk
    rw [classRange_of_config hconf]
    exact hok

/-- Beside the parameters, a parameter write touches nothing that the invariant speaks of. -/
theorem stateOk_setParam {s : State} (h : StateOk s) {u : UnitName} {i idx : Nat} {v : Word} {name : String}
    {c : ParamClass} (hc : (paramTable u)[idx]? = some (name, c)) (hv : ParamOk s i c v) :
    StateOk (s.setParam u i idx v) := by
  obtain ⟨hshape, hstatus, ⟨hdl, hgp⟩, hparam, ⟨hnco, hgp'⟩, htrack, henv⟩ := h
  have hring (x : Gp) : (setParamGp x v idx).ring = x.ring := by unfold setParamGp; split <;> rfl
  have hphase (x : Gp) (hx : inTurn x.p0 ∧ inTurn x.p1 ∧ inTurn x.p2 ∧ inTurn x.p3) :
      inTurn (setParamGp x v idx).p0 ∧ inTurn (setParamGp x v idx).p1 ∧ inTurn (setParamGp x v idx).p2 ∧
        inTurn (setParamGp x v idx).p3 := by
    unfold setParamGp; split <;> exact hx
  have hph (x : Nco) : (setParamNco x v idx).ph = x.ph := by unfold setParamNco; split <;> rfl
  have hz (x : Zc) (hx : TrackerOk x) : TrackerOk (setParamZc x v idx) := by unfold setParamZc; split <;> exact hx
  have he (x : Env) : (setParamEnv x v idx).e = x.e := by unfold setParamEnv; split <;> rfl
  refine ⟨?_, ?_, ?_, paramsOk_setParam hparam hc hv, ?_, ?_, ?_⟩
  · rw [ShapeOk, setParam_config]; exact hshape
  · rw [StatusOk, State.cause, State.ill, setParam_status]; exact hstatus
  · cases u
    case global => simp only [State.setParam]; split <;> exact ⟨hdl, hgp⟩
    case dl => exact ⟨forall_mem_modify hdl hdl, hgp⟩
    case gp => exact ⟨hdl, forall_mem_modify hgp fun x hx => by rw [hring]; exact hgp x hx⟩
    all_goals exact ⟨hdl, hgp⟩
  · cases u
    case global => simp only [State.setParam]; split <;> exact ⟨hnco, hgp'⟩
    case nco => exact ⟨forall_mem_modify hnco fun x hx => by rw [hph]; exact hnco x hx, hgp'⟩
    case gp => exact ⟨hnco, forall_mem_modify hgp' fun x hx => hphase x (hgp' x hx)⟩
    all_goals exact ⟨hnco, hgp'⟩
  · cases u
    case global => simp only [State.setParam]; split <;> exact htrack
    case zc => exact forall_mem_modify htrack fun x hx => hz x (htrack x hx)
    all_goals exact htrack
  · cases u
    case global => simp only [State.setParam]; split <;> exact henv
    case env => exact forall_mem_modify henv fun x hx => by rw [he]; exact henv x hx
    all_goals exact henv

/-- R40: only a parameter of GP has the class whose range depends on its own buffer. -/
theorem unit_of_glen {u : UnitName} {idx : Nat} {name : String} (h : (paramTable u)[idx]? = some (name, .glen)) :
    u = .gp := by
  have hall : ∀ p ∈ paramTable u, p.2 = .glen → u = .gp := by cases u <;> decide
  exact hall _ (List.mem_of_getElem? h) rfl

theorem zero_le_ofInt {n : Int} (h : 0 ≤ n) (hn : n ≤ 2 ^ 24) : le zero (ofInt n) = true := by
  have habs : n.natAbs ≤ 2 ^ 24 := by omega
  rw [le_iff_value isNaN_zero (isNaN_of_isFinite (isFinite_ofInt habs)), value_zero, value_ofInt habs]
  exact_mod_cast h

theorem two_le_ofInt {n : Int} (h : 2 ≤ n) (hn : n ≤ 2 ^ 24) : le two (ofInt n) = true := by
  have habs : n.natAbs ≤ 2 ^ 24 := by omega
  rw [le_iff_value (by decide) (isNaN_of_isFinite (isFinite_ofInt habs)), value_two, value_ofInt habs]
  exact_mod_cast h

/-- R40: in an admitted configuration no range is empty. -/
theorem classRange_ordered {s : State} (h : ShapeOk s) {i : Nat} {c : ParamClass} (hi : c = .glen → i < s.gp.length) :
    le (s.classRange i c).1 (s.classRange i c).2 = true := by
  cases c
  case idxdl =>
    obtain ⟨-, -, -, -, ⟨h1, h16⟩, -⟩ := h
    simp only [State.config, List.length_map] at h1 h16
    exact zero_le_ofInt (by omega) (by omega)
  case glen =>
    have hu := List.getElem?_eq_getElem (hi rfl)
    obtain ⟨h4, hmax⟩ := gpCap_of_shapeOk h (List.mem_of_getElem? hu)
    rw [classRange_eq_legalRange, hu]
    exact two_le_ofInt (n := ((s.gp[i]'(hi rfl)).ring.cap : Int) - 2) (by omega) (by omega)
  all_goals
    rw [classRange_eq_legalRange]
    simp only [legalRange]
    decide

/-- R42: truncation keeps a value in a range from 0.0 up. -/
theorem trunc_inRange {hi v : Word} (hhi : isFinite hi = true) (h : inRange zero hi v) : inRange zero hi (trunc v) := by
  have hv := isFinite_of_inRange (by decide) hhi h
  have hb := (inRange_iff_value isNaN_zero (isNaN_of_isFinite hhi)).1 h
  rw [value_zero] at hb
  obtain ⟨-, h0, h1⟩ := hb
  rw [inRange_iff_value isNaN_zero (isNaN_of_isFinite hhi), value_zero, value_trunc hv, toInt_eq, if_neg (not_lt.2 h0)]
  refine ⟨isNaN_of_isFinite (trunc_of_isFinite hv).1, ?_, (Int.floor_le _).trans h1⟩
  exact_mod_cast Int.floor_nonneg.2 h0

/-- R42: the range of an integer class is from 0.0 to a finite word. -/
theorem classRange_of_isInteger {s : State} (h : ShapeOk s) (i : Nat) {c : ParamClass} (hc : c.isInteger = true) :
    (s.classRange i c).1 = zero ∧ isFinite (s.classRange i c).2 = true := by
  cases c <;> simp only [ParamClass.isInteger, Bool.false_eq_true] at hc
  case idxdl =>
    obtain ⟨-, -, -, -, ⟨h1, h16⟩, -⟩ := h
    simp only [State.config, List.length_map] at h1 h16
    exact ⟨rfl, isFinite_ofInt (by omega)⟩
  case hang => exact ⟨rfl, show isFinite 0x4B800000 = true by decide⟩

/-- R41, R42: what a parameter write stores is legal. -/
theorem paramOk_storedParam {s : State} (h : ShapeOk s) {i : Nat} {c : ParamClass} (hi : c = .glen → i < s.gp.length)
    {x : Word} (hx : isNaN x = false) : ParamOk s i c (storedParam s i c x) := by
  have hclamp := clamp_inRange hx (classRange_ordered h hi)
  unfold ParamOk storedParam
  split
  · rename_i hc
    obtain ⟨hlo, hhi⟩ := classRange_of_isInteger h i hc
    rw [hlo] at hclamp ⊢
    exact ⟨trunc_inRange hhi hclamp, fun _ => trunc_trunc (isFinite_of_inRange (by decide) hhi hclamp)⟩
  · rename_i hc
    exact ⟨hclamp, fun h' => absurd h' hc⟩

theorem setFlagIf_config (s : State) (b : Bool) (m : Word) : (s.setFlagIf b m).config = s.config := by cases b <;> rfl

/-- R41: a parameter write to an existing bank keeps the invariant. -/
theorem stateOk_paramWrite {s : State} (h : StateOk s) {u : UnitName} {i : Nat} (hi : i < s.count u) (idx : Nat)
    (x : Word) : StateOk (s.paramWrite u i idx x) := by
  cases hx : isNaN x
  case true => rw [paramWrite_nan hx]; exact stateOk_setFlags h (by simp [flagMasks])
  case false =>
    cases hc : (paramTable u)[idx]? with
    | none =>
      unfold State.paramWrite
      rw [if_neg (by simp [hx]), hc]
      exact h
    | some p =>
      obtain ⟨name, c⟩ := p
      have hglen : c = .glen → i < s.gp.length := by
        rintro rfl
        rw [unit_of_glen hc] at hi
        exact hi
      rw [paramWrite_value hx hc]
      generalize (!F32.eq (F32.clamp x (s.classRange i c).1 (s.classRange i c).2) x) = b
      obtain ⟨hshape, -⟩ := id h
      have hok := paramOk_storedParam hshape hglen hx
      refine stateOk_setParam (stateOk_setFlagIf h b (by simp [flagMasks])) hc ?_
      unfold ParamOk
      rw [classRange_of_config (setFlagIf_config s b pclampMask)]
      exact hok

end Sys2Proof.Machine

/-! SUPPORT. The power-on state meets the invariant, and every command and bus event keeps it. -/

namespace Sys2Proof.Machine

open F32

/-! ## Power-on (R352) -/

theorem powerOn_config (c : Config) : (powerOn c).config = c := by
  simp [State.config, powerOn, Function.comp_def, powerOnDl, powerOnGp, powerOnRing]

/-- The parameters of a unit with one power-on value. -/
theorem bind_getElem?_replicate {n i : Nat} (h : i < n) (u : α) (f : α → Option β) :
    (List.replicate n u)[i]?.bind f = f u := by
  rw [List.getElem?_replicate, if_pos h]; rfl

/-- R43 to R58: the power-on value of every parameter is legal. The two ranges that depend on the configuration, those of
`MD.dlsel` and `GP.glen`, are not empty in an admitted one. -/
theorem powerOn_paramsOk {c : Config} (h : c.Admitted) : ParamsOk (powerOn c) := by
  have hshape : ShapeOk (powerOn c) := by rw [ShapeOk, powerOn_config]; exact h
  intro u hu i hi idx hidx
  have hdlsel := classRange_ordered hshape (i := i) (c := .idxdl) (fun h => by cases h)
  rw [paramOkAt_iff]
  cases u
  case all => simp [unitNames] at hu
  case gp =>
    have hglen := classRange_ordered hshape (i := i) (c := .glen) (fun _ => hi)
    simp only [State.count, powerOn, List.length_map] at hi
    simp only [paramCount, paramTable, List.length_cons, List.length_nil] at hidx
    simp only [ParamOk, classRange_eq_legalRange, legalRange, State.param?, powerOn, List.getElem?_map,
      List.getElem?_eq_getElem hi, Option.map_some, Option.bind_some, Option.getD_some] at hglen ⊢
    interval_cases idx
    · refine ⟨_, _, rfl, rfl, ?_⟩
      simp only [powerOnGp]
      decide
    · exact ⟨_, _, rfl, rfl, ⟨hglen, le_refl' (isNaN_right_of_le hglen)⟩, fun h => by cases h⟩
  all_goals
    simp only [ParamOk, classRange_eq_legalRange, State.param?, powerOn] at hdlsel ⊢
  case global =>
    simp only [State.count] at hi
    simp only [paramCount, paramTable, List.length_cons, List.length_nil] at hidx
    obtain rfl : i = 0 := by omega
    obtain rfl : idx = 0 := by omega
    refine ⟨_, _, rfl, rfl, ?_⟩
    simp only [legalRange]
    decide
  case dl | li => simp [paramCount, paramTable] at hidx
  all_goals
    rw [bind_getElem?_replicate (by simpa [State.count, powerOn] using hi)]
    simp only [paramCount, paramTable, List.length_cons, List.length_nil] at hidx
  case md =>
    obtain hlast | hfirst : idx = 4 ∨ idx < 4 := by omega
    · subst hlast
      exact ⟨_, _, rfl, rfl, ⟨show le zero zero = true by decide, hdlsel⟩, fun _ => show trunc zero = zero by decide⟩
    · interval_cases idx
      all_goals
        refine ⟨_, _, rfl, rfl, ?_⟩
        simp only [legalRange]
        decide
  all_goals
    interval_cases idx
    all_goals
      refine ⟨_, _, rfl, rfl, ?_⟩
      simp only [legalRange]
      decide

/-- R352: the power-on state of an admitted configuration meets the invariant. -/
theorem powerOn_stateOk {c : Config} (h : c.Admitted) : StateOk (powerOn c) := by
  obtain ⟨-, -, -, -, -, -, -, -, -, -, -, -, -, -, hdl, hgp⟩ := id h
  refine ⟨by rw [ShapeOk, powerOn_config]; exact h, ?_, ⟨?_, ?_⟩, powerOn_paramsOk h, ⟨?_, ?_⟩, ?_, ?_⟩
  · simp only [StatusOk, State.cause, State.ill, powerOn]
    decide
  · exact List.forall_mem_map.2 fun cap hcap => powerOnRing_ok (by have := hdl cap hcap; omega)
  · exact List.forall_mem_map.2 fun cap hcap => powerOnRing_ok (by have := hgp cap hcap; omega)
  · exact List.forall_mem_replicate.2 (.inr (.inr (by decide)))
  · refine List.forall_mem_map.2 fun cap _ => ?_
    simp only [powerOnGp]
    decide
  · exact List.forall_mem_replicate.2 (.inr (by decide))
  · exact List.forall_mem_replicate.2 (.inr (.inr (by decide)))

/-- Settles O19: the power-on values unit by unit. -/
theorem powerOnStateIsOk : Obligations.PowerOnStateIsOk := fun _ h => powerOn_stateOk h

/-- Settles O20: the default configuration is one R8 admits. -/
theorem resetStateIsOk : Obligations.ResetStateIsOk := powerOn_stateOk (by decide)

/-! ## Every command keeps the invariant -/

/-- The outcome, if it is a next state, meets the invariant. -/
def NextOk (r : Result) : Prop := ∀ t, r = .next t → StateOk t

theorem nextOk_next {t : State} (h : StateOk t) : NextOk (.next t) := by
  intro t' ht
  cases ht
  exact h

section Commands

variable {s : State} (h : StateOk s)
include h

theorem nextOk_reject (c : Cause) : NextOk (.next (s.reject c)) := nextOk_next (stateOk_reject h c)

theorem nextOk_result (nv : List Word) (rd : Reg) (y : Word) : NextOk (.next (s.result nv rd y)) :=
  nextOk_next (stateOk_result h nv rd y)

theorem nextOk_writeReg (rd : Reg) (y : Word) : NextOk (.next (s.writeReg rd y)) :=
  nextOk_next (stateOk_writeReg h rd y)

/-! ### Control commands -/

theorem execRst_nextOk (u : UnitName) (inst : InstNo) : NextOk (execRst u inst s) := by
  unfold execRst
  split
  · exact nextOk_reject h _
  · split
    · exact nextOk_next (stateOk_resetAll h)
    · exact nextOk_next (stateOk_resetInstance h u _)

theorem execSetp_nextOk (ra : Reg) (u : UnitName) (inst : InstNo) (idx : Idx) : NextOk (execSetp ra u inst idx s) := by
  unfold execSetp
  split
  · exact nextOk_reject h _
  · split
    · exact nextOk_reject h _
    · rename_i hi
      split
      · exact nextOk_reject h _
      · exact nextOk_next (stateOk_paramWrite h (not_le.1 hi) _ _)

theorem execGetp_nextOk (rd : Reg) (u : UnitName) (inst : InstNo) (idx : Idx) : NextOk (execGetp rd u inst idx s) := by
  unfold execGetp
  split
  · exact nextOk_reject h _
  · split
    · exact nextOk_reject h _
    · split
      · exact nextOk_reject h _
      · exact nextOk_writeReg h rd _

theorem execGets_nextOk (rd : Reg) (u : UnitName) (inst : InstNo) (idx : Idx) : NextOk (execGets rd u inst idx s) := by
  unfold execGets
  split
  · exact nextOk_reject h _
  · split
    · exact nextOk_reject h _
    · split
      · exact nextOk_reject h _
      · exact nextOk_writeReg h rd _

theorem execCoef_nextOk (ra : Reg) (u : UnitName) (inst : InstNo) : NextOk (execCoef ra u inst s) := by
  unfold execCoef
  split
  · exact nextOk_reject h _
  · split
    · exact nextOk_reject h _
    · rename_i hi
      dsimp only
      split
      · exact nextOk_next (stateOk_setFlags h (by simp [flagMasks]))
      · generalize (!F32.eq (designCutoff (s.freg ra) s.fs) (s.freg ra)) = b
        refine nextOk_next (stateOk_paramWrite (stateOk_setFlagIf h b (by simp [flagMasks])) ?_ _ _)
        rw [count_of_config (setFlagIf_config s b pclampMask)]
        exact not_le.1 hi

/-! ### Sample conversions -/

theorem execCvtfiSym_nextOk (rd ra : Reg) : NextOk (execCvtfiSym rd ra s) := by
  unfold execCvtfiSym
  dsimp only
  split
  · exact nextOk_result h _ rd _
  · exact nextOk_next (stateOk_writeSample h rd _)

theorem execCvtfiAsym_nextOk (rd ra : Reg) : NextOk (execCvtfiAsym rd ra s) := by
  unfold execCvtfiAsym
  dsimp only
  split
  · exact nextOk_result h _ rd _
  · exact nextOk_next (stateOk_writeSample h rd _)

/-! ### Step commands -/

theorem execBqStep_nextOk (rd ra : Reg) (inst : InstNo) : NextOk (execBqStep rd ra inst s) := by
  unfold execBqStep
  split
  · exact nextOk_reject h _
  · rename_i u hu
    exact nextOk_result (stateOk_setBq h hu (by rfl)) _ rd _

theorem execLpStep_nextOk (rd ra : Reg) (inst : InstNo) : NextOk (execLpStep rd ra inst s) := by
  unfold execLpStep
  split
  · exact nextOk_reject h _
  · rename_i u hu
    exact nextOk_result (stateOk_setLp h hu (by rfl)) _ rd _

theorem execHpStep_nextOk (rd ra : Reg) (inst : InstNo) : NextOk (execHpStep rd ra inst s) := by
  unfold execHpStep
  split
  · exact nextOk_reject h _
  · rename_i u hu
    exact nextOk_result (stateOk_setHp h hu (by rfl)) _ rd _

theorem execScStep_nextOk (rd ra : Reg) (inst : InstNo) : NextOk (execScStep rd ra inst s) := by
  unfold execScStep
  split
  · exact nextOk_reject h _
  · exact nextOk_result h _ rd _

theorem execDcStep_nextOk (rd ra : Reg) (inst : InstNo) : NextOk (execDcStep rd ra inst s) := by
  unfold execDcStep
  split
  · exact nextOk_reject h _
  · rename_i u hu
    exact nextOk_result (stateOk_setDc h hu (by rfl)) _ rd _

theorem execLiStep_nextOk (rd ra rb : Reg) (inst : InstNo) : NextOk (execLiStep rd ra rb inst s) := by
  unfold execLiStep
  split
  · exact nextOk_reject h _
  · rename_i u hu
    exact nextOk_result (stateOk_setLi h hu (by rfl)) _ rd _

theorem execDsStep_nextOk (rd ra : Reg) (inst : InstNo) : NextOk (execDsStep rd ra inst s) := by
  unfold execDsStep
  split
  · exact nextOk_reject h _
  · rename_i u hu
    exact nextOk_result (stateOk_setDs h hu (by rfl)) _ rd _

theorem execXoStep_nextOk (rd ra : Reg) (inst : InstNo) : NextOk (execXoStep rd ra inst s) := by
  unfold execXoStep
  split
  · exact nextOk_reject h _
  · rename_i u hu
    split
    · exact nextOk_reject h _
    · exact nextOk_writeReg (stateOk_result (stateOk_setXo h hu (by rfl)) _ rd _) _ _

theorem execDlWr_nextOk (ra : Reg) (inst : InstNo) : NextOk (execDlWr ra inst s) := by
  unfold execDlWr
  split
  · exact nextOk_reject h _
  · rename_i u hu
    obtain ⟨-, -, ⟨hdl, -⟩, -⟩ := id h
    have hring := bufWrite_ok (hdl u (List.mem_of_getElem? hu)) (s.freg ra)
    exact nextOk_next (stateOk_stickyNV (stateOk_setDl h hu (by rfl) (by rfl) hring) _)

theorem execDlRd_nextOk (rd ra : Reg) (inst : InstNo) : NextOk (execDlRd rd ra inst s) := by
  unfold execDlRd
  split
  · exact nextOk_reject h _
  · exact nextOk_result h _ rd _

theorem execMdStep_nextOk (rd ra : Reg) (inst : InstNo) : NextOk (execMdStep rd ra inst s) := by
  unfold execMdStep
  split
  · exact nextOk_reject h _
  · split
    · exact nextOk_reject h _
    · exact nextOk_result h _ rd _

/-- R246: the new phase is a fraction. -/
theorem execNcoStep_nextOk (rd ra : Reg) (inst : InstNo) : NextOk (execNcoStep rd ra inst s) := by
  unfold execNcoStep
  split
  · exact nextOk_reject h _
  · rename_i u hu
    exact nextOk_result (stateOk_setNco h hu (by rfl) (inTurn_fract_or_isNaN _)) _ rd _

theorem execZcStep_nextOk (rd ra rb : Reg) (inst : InstNo) : NextOk (execZcStep rd ra rb inst s) := by
  unfold execZcStep
  split
  · exact nextOk_reject h _
  · rename_i u hu
    obtain ⟨-, -, -, hparam, -, htrack, -⟩ := id h
    have hmem := List.mem_of_getElem? hu
    have hz := zcStep_ok (trackerRanges_of_paramsOk hparam hmem) (htrack u hmem) (fsRange_of_paramsOk hparam)
      (s.freg ra) (s.freg rb)
    exact nextOk_result (stateOk_setZc h hu (paramZc_zcStep u s.fs _ _) hz) _ rd _

theorem execEnvStep_nextOk (rd ra : Reg) (inst : InstNo) : NextOk (execEnvStep rd ra inst s) := by
  unfold execEnvStep
  split
  · exact nextOk_reject h _
  · rename_i u hu
    obtain ⟨-, -, -, hparam, -, -, henv⟩ := id h
    obtain ⟨hatt, hrel⟩ := envRanges_of_paramsOk hparam hu
    have he := envelope_nanOrNonneg (x := s.freg ra) (henv u (List.mem_of_getElem? hu)) hatt hrel
    exact nextOk_result (stateOk_setEnv h hu (by rfl) he) _ rd _

theorem execGpStep_nextOk (rd ra : Reg) (inst : InstNo) : NextOk (execGpStep rd ra inst s) := by
  unfold execGpStep
  split
  · exact nextOk_reject h _
  · rename_i u hu
    obtain ⟨hshape, -, ⟨-, hgp⟩, hparam, ⟨-, hphase⟩, -, -⟩ := id h
    have hmem := List.mem_of_getElem? hu
    obtain ⟨hratio, hglen, hglen2⟩ := gpRanges_of_stateOk hshape hparam hu
    obtain ⟨h0, h1, h2, h3⟩ := hphase u hmem
    have hadv {p : Word} (hp : inTurn p) := inTurn_advance hratio hglen hglen2 hp
    have hring := bufWrite_ok (hgp u hmem) (s.freg ra)
    have hok := stateOk_setGp (u' := { u with
      ring := bufWrite u.ring (s.freg ra), p0 := advance u u.p0, p1 := advance u u.p1, p2 := advance u u.p2,
      p3 := advance u u.p3 }) h hu rfl rfl hring ⟨hadv h0, hadv h1, hadv h2, hadv h3⟩
    exact nextOk_result hok _ rd _

/-- Every command keeps the invariant. The scalar commands end in one write of a register. -/
theorem exec_nextOk (i : Instr) : NextOk (exec i s) := by
  cases i with
  | nop => exact nextOk_next h
  | rst u inst => exact execRst_nextOk h u inst
  | setp ra u inst idx => exact execSetp_nextOk h ra u inst idx
  | getp rd u inst idx => exact execGetp_nextOk h rd u inst idx
  | gets rd u inst idx => exact execGets_nextOk h rd u inst idx
  | coef ra u inst => exact execCoef_nextOk h ra u inst
  | ldhi rd imm => exact nextOk_writeReg h rd _
  | orlo rd imm => exact nextOk_writeReg h rd _
  | mov rd ra => exact nextOk_writeReg h rd _
  | fadd rd ra rb => exact nextOk_result h _ rd _
  | fsub rd ra rb => exact nextOk_result h _ rd _
  | fmul rd ra rb => exact nextOk_result h _ rd _
  | clamp rd ra rb rc => exact nextOk_result h _ rd _
  | lerp rd ra rb rc => exact nextOk_result h _ rd _
  | satAtan rd ra rb => exact nextOk_result h _ rd _
  | satTanh rd ra rb => exact nextOk_result h _ rd _
  | sin2pi rd ra => exact nextOk_result h _ rd _
  | cos2pi rd ra => exact nextOk_result h _ rd _
  | cvtifSym rd ra => exact nextOk_writeReg h rd _
  | cvtifAsym rd ra => exact nextOk_writeReg h rd _
  | cvtfiSym rd ra => exact execCvtfiSym_nextOk h rd ra
  | cvtfiAsym rd ra => exact execCvtfiAsym_nextOk h rd ra
  | bqStep rd ra inst => exact execBqStep_nextOk h rd ra inst
  | lpStep rd ra inst => exact execLpStep_nextOk h rd ra inst
  | hpStep rd ra inst => exact execHpStep_nextOk h rd ra inst
  | scStep rd ra inst => exact execScStep_nextOk h rd ra inst
  | dlWr ra inst => exact execDlWr_nextOk h ra inst
  | dlRd rd ra inst => exact execDlRd_nextOk h rd ra inst
  | dcStep rd ra inst => exact execDcStep_nextOk h rd ra inst
  | liStep rd ra rb inst => exact execLiStep_nextOk h rd ra rb inst
  | dsStep rd ra inst => exact execDsStep_nextOk h rd ra inst
  | xoStep rd ra inst => exact execXoStep_nextOk h rd ra inst
  | mdStep rd ra inst => exact execMdStep_nextOk h rd ra inst
  | ncoStep rd ra inst => exact execNcoStep_nextOk h rd ra inst
  | zcStep rd ra rb inst => exact execZcStep_nextOk h rd ra rb inst
  | envStep rd ra inst => exact execEnvStep_nextOk h rd ra inst
  | gpStep rd ra inst => exact execGpStep_nextOk h rd ra inst

/-! ## Every bus event keeps the invariant -/

theorem runCommand_nextOk (w : Word) : NextOk (runCommand w s) := by
  unfold runCommand
  split
  · exact exec_nextOk h _
  · exact nextOk_reject h _

theorem busWrite_nextOk (addr : Nat) (v : Word) : NextOk (busWrite addr v s) := by
  unfold busWrite
  split_ifs
  · exact nextOk_writeReg h _ v
  · exact runCommand_nextOk h v
  · exact nextOk_next (stateOk_writeStatus h v)
  · exact nextOk_next h

omit h in
theorem checkAccess_nextOk {r : Result} (hr : NextOk r) (addr width : Nat) : NextOk (checkAccess addr width r) := by
  unfold checkAccess
  split_ifs
  · intro t ht; cases ht
  · exact hr
  · intro t ht; cases ht

/-- The pending events and the last word read are the model's own: the invariant does not speak of them. -/
theorem stateOk_setBus (bus : List BusEvent) (w : Word) : StateOk { s with bus := bus, readData := w } :=
  stateOk_of_banksKept h (by simp [banksKept]) (statusOk_of_stateOk h)

theorem busEvent_nextOk (e : BusEvent) : NextOk (busEvent e s) := by
  cases e with
  | read addr width => exact checkAccess_nextOk (nextOk_next (stateOk_setBus h s.bus _)) addr width
  | write addr width data => exact checkAccess_nextOk (busWrite_nextOk h addr data) addr width
  | powerCycle =>
    obtain ⟨hshape, -⟩ := h
    exact nextOk_next (stateOk_setBus (powerOn_stateOk hshape) s.bus _)

theorem step_nextOk : NextOk (step s) := by
  unfold step busStep
  split
  · exact nextOk_next h
  · exact busEvent_nextOk (stateOk_setBus h _ s.readData) _

end Commands

/-- Settles O23: one bus event is one of these operations. -/
theorem stepKeepsStateOk : Obligations.StepKeepsStateOk := fun _ _ h => step_nextOk h _

end Sys2Proof.Machine

/-! SUPPORT. What a command may change, said once for all commands: its reach. -/

namespace Sys2Proof.Machine

/-! ## STATUS under a command (10_state.md R34) -/

/-- Sticky flags are only set, no reserved bit changes, and CAUSE changes only as ILL is set. -/
structure StatusGrows (s t : State) : Prop where
  sticky : ∀ b < 5, s.status.getLsbD b = true → t.status.getLsbD b = true
  reserved : t.status &&& 0xFFFFF0E0 = s.status &&& 0xFFFFF0E0
  cause : t.cause = s.cause ∨ (s.ill = false ∧ t.ill = true)

theorem StatusGrows.of_eq {s t : State} (h : t.status = s.status) : StatusGrows s t :=
  ⟨fun _ _ hs => h ▸ hs, by rw [h], .inl (by rw [State.cause, h, State.cause])⟩

theorem StatusGrows.trans {s t u : State} (h : StatusGrows s t) (h' : StatusGrows t u) : StatusGrows s u := by
  refine ⟨fun b hb hs => h'.sticky b hb (h.sticky b hb hs), h'.reserved.trans h.reserved, ?_⟩
  rcases h.cause with hc | ⟨hs, ht⟩
  · rcases h'.cause with hc' | ⟨ht, hu⟩
    · exact .inl (hc'.trans hc)
    · refine .inr ⟨Bool.eq_false_iff.2 fun hs => ?_, hu⟩
      exact Bool.eq_false_iff.1 ht (h.sticky 0 (by omega) hs)
  · exact .inr ⟨hs, h'.sticky 0 (by omega) ht⟩

theorem statusGrows_setFlags (s : State) {m : Word} (hm : m ∈ flagMasks) : StatusGrows s (s.setFlags m) := by
  have hres : ∀ m ∈ flagMasks, m &&& 0xFFFFF0E0 = 0 := by
    simp only [flagMasks, List.forall_mem_cons, List.not_mem_nil, false_implies, implies_true, and_true]
    decide
  obtain ⟨-, hcause, -⟩ := flagMasks_fields m hm
  refine ⟨fun b _ hb => ?_, ?_, .inl ?_⟩
  · rw [setFlags_status, BitVec.getLsbD_or, hb, Bool.true_or]
  · rw [setFlags_status, BitVec.and_comm, BitVec.and_or_distrib_left, BitVec.and_comm _ m, hres m hm, BitVec.and_comm]
    exact BitVec.or_zero
  · rw [State.cause, setFlags_status, BitVec.extractLsb'_or, hcause, BitVec.or_zero, State.cause]

/-- Words that agree under a mask agree in every bit of the mask. -/
theorem getLsbD_of_and_eq {x y m : Word} (h : x &&& m = y &&& m) {b : Nat} (hb : m.getLsbD b = true) :
    x.getLsbD b = y.getLsbD b := by
  have hbit := congrArg (BitVec.getLsbD · b) h
  simpa only [BitVec.getLsbD_and, hb, Bool.and_true] using hbit

/-- A rejection sets ILL, and CAUSE only where ILL was 0 (R322). -/
theorem statusGrows_reject (s : State) (c : Cause) : StatusGrows s (s.reject c) := by
  obtain ⟨hill, hcause, hrest, -⟩ := reject_spec s c
  refine ⟨fun b hb hs => ?_, ?_, ?_⟩
  · rcases Nat.eq_zero_or_pos b with rfl | hb0
    · exact hill
    · have hmask : (0xFFFFF0FE : Word).getLsbD b = true := by interval_cases b <;> decide
      rw [getLsbD_of_and_eq hrest hmask, hs]
  · have hmask : (0xFFFFF0E0 : Word) = 0xFFFFF0FE &&& 0xFFFFF0E0 := by decide
    rw [hmask, ← BitVec.and_assoc, hrest, BitVec.and_assoc]
  · cases hs : s.ill
    · exact .inr ⟨rfl, hill⟩
    · rw [State.ill] at hs
      rw [if_pos hs] at hcause
      exact .inl hcause

/-! ## The reach of a command -/

/-- Everything bank `j` of unit `u` holds beside its parameters is as before: state registers and buffer. -/
structure BankStateKept (u : UnitName) (j : Nat) (s t : State) : Prop where
  reg : ∀ idx, t.stateReg? u j idx = s.stateReg? u j idx
  slot : ∀ a, t.slot? u j a = s.slot? u j a

/-- The change from `s` to `t` is one command `i` may make: it writes only what is its own to write (10_state.md R31,
R34, R39, R59; 20_memory.md R81), and keeps buffers and parameters legal (R41, R82). -/
structure Reach (i : Instr) (s t : State) : Prop where
  status : StatusGrows s t
  regs : regsKept (dests i) s t
  config : t.config = s.config
  params : writesParams i = false → ∀ u j idx, t.param? u j idx = s.param? u j idx
  banks : ∀ u j, mayChangeState i u j = false → BankStateKept u j s t
  buffersOk : BuffersOk s → BuffersOk t
  paramsOk : ShapeOk s → ParamsOk s → ParamsOk t

/-- A command's parts compose: what each part may do, the whole may do. -/
theorem Reach.trans {i : Instr} {s t u : State} (h : Reach i s t) (h' : Reach i t u) : Reach i s u where
  status := h.status.trans h'.status
  regs r hr := ⟨(h'.regs r hr).1.trans (h.regs r hr).1, (h'.regs r hr).2.trans (h.regs r hr).2⟩
  config := h'.config.trans h.config
  params hw v j idx := (h'.params hw v j idx).trans (h.params hw v j idx)
  banks v j hm :=
    ⟨fun idx => ((h'.banks v j hm).reg idx).trans ((h.banks v j hm).reg idx),
      fun a => ((h'.banks v j hm).slot a).trans ((h.banks v j hm).slot a)⟩
  buffersOk hs := h'.buffersOk (h.buffersOk hs)
  paramsOk hshape hs := h'.paramsOk (by rw [ShapeOk, h.config]; exact hshape) (h.paramsOk hshape hs)

/-! ## Changes outside the banks -/

/-- Outside the units `us` state registers and buffers read as before. -/
theorem bankStateKept_of_banksKept {s t : State} {us : List UnitName} (hb : banksKept us s t) {v : UnitName}
    (hv : v ∉ us) (j : Nat) : BankStateKept v j s t := by
  obtain ⟨-, hbq, hlp, hhp, hsc, hdl, hdc, hli, hds, hxo, hmd, hnco, hzc, henv, hgp⟩ := hb
  constructor
  · intro idx
    cases v <;> simp only [State.stateReg?, *, not_false_eq_true]
  · intro a
    cases v <;> simp [State.slot?, *]

theorem buffersOk_of_banksKept {s t : State} (hb : banksKept [] s t) (h : BuffersOk s) : BuffersOk t := by
  obtain ⟨-, -, -, -, -, hdl, -, -, -, -, -, -, -, -, hgp⟩ := hb
  rw [BuffersOk, hdl List.not_mem_nil, hgp List.not_mem_nil]
  exact h

theorem regsKept_of_eq {s t : State} (hd : t.d = s.d) (hw : t.written = s.written) (rs : List Reg) : regsKept rs s t :=
  fun r _ => ⟨reg_congr hd r, isWritten_congr hw r⟩

theorem reach_of_banksKept {i : Instr} {s t : State} (hst : StatusGrows s t) (hr : regsKept (dests i) s t)
    (hb : banksKept [] s t) : Reach i s t := by
  have hk := paramsKept_of_banksKept hb
  exact ⟨hst, hr, hk.config, fun _ => hk.param, fun v j _ => bankStateKept_of_banksKept hb List.not_mem_nil j,
    buffersOk_of_banksKept hb, fun _ => hk.paramsOk⟩

section Ends

variable {i : Instr} (s : State)

theorem reach_refl : Reach i s s :=
  reach_of_banksKept (.of_eq rfl) (regsKept_of_eq rfl rfl _) (by simp [banksKept])

theorem reach_setFlags {m : Word} (hm : m ∈ flagMasks) : Reach i s (s.setFlags m) :=
  reach_of_banksKept (statusGrows_setFlags s hm) (regsKept_of_eq rfl rfl _) (by simp [banksKept])

theorem reach_setFlagIf (c : Bool) {m : Word} (hm : m ∈ flagMasks) : Reach i s (s.setFlagIf c m) := by
  cases c
  · exact reach_refl s
  · exact reach_setFlags s hm

theorem reach_stickyNV (xs : List Word) : Reach i s (s.stickyNV xs) := by
  unfold State.stickyNV
  split
  · exact reach_setFlags s (by simp [flagMasks])
  · exact reach_refl s

theorem reach_reject (c : Cause) : Reach i s (s.reject c) :=
  reach_of_banksKept (statusGrows_reject s c) (regsKept_of_eq rfl rfl _) (by simp [banksKept])

theorem reach_writeReg {rd : Reg} (hrd : rd ∈ dests i) (v : Word) : Reach i s (s.writeReg rd v) := by
  refine reach_of_banksKept (.of_eq rfl) (fun r hr => ?_) (by simp [banksKept])
  have hne : r ≠ rd := fun e => hr (e ▸ hrd)
  exact ⟨reg_writeReg_other s hne v, isWritten_writeReg_other s hne v⟩

theorem reach_result {rd : Reg} (hrd : rd ∈ dests i) (nv : List Word) (y : Word) : Reach i s (s.result nv rd y) :=
  (reach_stickyNV s nv).trans (reach_writeReg _ hrd y)

theorem reach_writeSample {rd : Reg} (hrd : rd ∈ dests i) (v : Word) : Reach i s (s.writeSample rd v) :=
  (reach_setFlagIf s _ (by simp [flagMasks])).trans (reach_writeReg _ hrd _)

end Ends

/-! ## Changes of the state in one bank -/

/-- The change from `s` to `t` is one of the state registers and the buffer of bank `n` of unit `u`. -/
structure OneBank (u : UnitName) (n : Nat) (s t : State) : Prop where
  status : t.status = s.status
  d : t.d = s.d
  written : t.written = s.written
  units : banksKept [u] s t
  config : t.config = s.config
  params : ∀ j idx, t.param? u j idx = s.param? u j idx
  others : ∀ j, j ≠ n → BankStateKept u j s t
  buffersOk : BuffersOk s → BuffersOk t

theorem OneBank.reach {i : Instr} {u : UnitName} {n : Nat} {s t : State} (h : OneBank u n s t)
    (hm : mayChangeState i u n = true) : Reach i s t := by
  have hk := paramsKept_of_unit h.units h.config h.params
  refine ⟨.of_eq h.status, regsKept_of_eq h.d h.written _, h.config, fun _ => hk.param, fun v j hv => ?_, h.buffersOk,
    fun _ => hk.paramsOk⟩
  by_cases hu : v = u
  · subst hu
    exact h.others j fun hj => by simp [hj, hm] at hv
  · exact bankStateKept_of_banksKept h.units (by simpa using hu) j

theorem bind_getElem?_set_other {α β : Type} {l : List α} {n j : Nat} (h : j ≠ n) (x : α) (f : α → Option β) :
    (l.set n x)[j]?.bind f = l[j]?.bind f := by
  rw [List.getElem?_set_ne (Ne.symm h)]

section Banks

variable {s : State} {n : InstNo}

theorem oneBank_setBq {u u' : Bq} (hu : s.bq[n.toNat]? = some u) (hp : paramBq u' = paramBq u) :
    OneBank .bq n.toNat s (s.setBq n u') :=
  ⟨rfl, rfl, rfl, by simp [banksKept], by simp [State.config],
    fun j idx => bind_getElem?_set (f := (paramBq · idx)) hu (congrFun hp idx) j,
    fun _ hj => ⟨fun _ => bind_getElem?_set_other hj _ _, fun _ => rfl⟩, id⟩

theorem oneBank_setLp {u u' : Lp} (hu : s.lp[n.toNat]? = some u) (hp : paramLp u' = paramLp u) :
    OneBank .lp n.toNat s (s.setLp n u') :=
  ⟨rfl, rfl, rfl, by simp [banksKept], by simp [State.config],
    fun j idx => bind_getElem?_set (f := (paramLp · idx)) hu (congrFun hp idx) j,
    fun _ hj => ⟨fun _ => bind_getElem?_set_other hj _ _, fun _ => rfl⟩, id⟩

theorem oneBank_setHp {u u' : Hp} (hu : s.hp[n.toNat]? = some u) (hp : paramHp u' = paramHp u) :
    OneBank .hp n.toNat s (s.setHp n u') :=
  ⟨rfl, rfl, rfl, by simp [banksKept], by simp [State.config],
    fun j idx => bind_getElem?_set (f := (paramHp · idx)) hu (congrFun hp idx) j,
    fun _ hj => ⟨fun _ => bind_getElem?_set_other hj _ _, fun _ => rfl⟩, id⟩

theorem oneBank_setDc {u u' : Dc} (hu : s.dc[n.toNat]? = some u) (hp : paramDc u' = paramDc u) :
    OneBank .dc n.toNat s (s.setDc n u') :=
  ⟨rfl, rfl, rfl, by simp [banksKept], by simp [State.config],
    fun j idx => bind_getElem?_set (f := (paramDc · idx)) hu (congrFun hp idx) j,
    fun _ hj => ⟨fun _ => bind_getElem?_set_other hj _ _, fun _ => rfl⟩, id⟩

theorem oneBank_setLi {u u' : Li} (hu : s.li[n.toNat]? = some u) (hp : paramLi u' = paramLi u) :
    OneBank .li n.toNat s (s.setLi n u') :=
  ⟨rfl, rfl, rfl, by simp [banksKept], by simp [State.config],
    fun j idx => bind_getElem?_set (f := (paramLi · idx)) hu (congrFun hp idx) j,
    fun _ hj => ⟨fun _ => bind_getElem?_set_other hj _ _, fun _ => rfl⟩, id⟩

theorem oneBank_setDs {u u' : Ds} (hu : s.ds[n.toNat]? = some u) (hp : paramDs u' = paramDs u) :
    OneBank .ds n.toNat s (s.setDs n u') :=
  ⟨rfl, rfl, rfl, by simp [banksKept], by simp [State.config],
    fun j idx => bind_getElem?_set (f := (paramDs · idx)) hu (congrFun hp idx) j,
    fun _ hj => ⟨fun _ => bind_getElem?_set_other hj _ _, fun _ => rfl⟩, id⟩

theorem oneBank_setXo {u u' : Xo} (hu : s.xo[n.toNat]? = some u) (hp : paramXo u' = paramXo u) :
    OneBank .xo n.toNat s (s.setXo n u') :=
  ⟨rfl, rfl, rfl, by simp [banksKept], by simp [State.config],
    fun j idx => bind_getElem?_set (f := (paramXo · idx)) hu (congrFun hp idx) j,
    fun _ hj => ⟨fun _ => bind_getElem?_set_other hj _ _, fun _ => rfl⟩, id⟩

theorem oneBank_setNco {u u' : Nco} (hu : s.nco[n.toNat]? = some u) (hp : paramNco u' = paramNco u) :
    OneBank .nco n.toNat s (s.setNco n u') :=
  ⟨rfl, rfl, rfl, by simp [banksKept], by simp [State.config],
    fun j idx => bind_getElem?_set (f := (paramNco · idx)) hu (congrFun hp idx) j,
    fun _ hj => ⟨fun _ => bind_getElem?_set_other hj _ _, fun _ => rfl⟩, id⟩

theorem oneBank_setZc {u u' : Zc} (hu : s.zc[n.toNat]? = some u) (hp : paramZc u' = paramZc u) :
    OneBank .zc n.toNat s (s.setZc n u') :=
  ⟨rfl, rfl, rfl, by simp [banksKept], by simp [State.config],
    fun j idx => bind_getElem?_set (f := (paramZc · idx)) hu (congrFun hp idx) j,
    fun _ hj => ⟨fun _ => bind_getElem?_set_other hj _ _, fun _ => rfl⟩, id⟩

theorem oneBank_setEnv {u u' : Env} (hu : s.env[n.toNat]? = some u) (hp : paramEnv u' = paramEnv u) :
    OneBank .env n.toNat s (s.setEnv n u') :=
  ⟨rfl, rfl, rfl, by simp [banksKept], by simp [State.config],
    fun j idx => bind_getElem?_set (f := (paramEnv · idx)) hu (congrFun hp idx) j,
    fun _ hj => ⟨fun _ => bind_getElem?_set_other hj _ _, fun _ => rfl⟩, id⟩

/-- R82: the buffer of one DL takes one sample. -/
theorem oneBank_setDl {u u' : Dl} (hu : s.dl[n.toNat]? = some u) {v : Word} (hring : u'.ring = bufWrite u.ring v) :
    OneBank .dl n.toNat s (s.setDl n u') := by
  have hcap : u'.ring.cap = u.ring.cap := by rw [hring, bufWrite_cap]
  refine ⟨rfl, rfl, rfl, by simp [banksKept],
    by simp [State.config, map_set_of_eq (f := fun x => x.ring.cap) hu hcap],
    fun j idx => bind_getElem?_set (f := (paramDl · idx)) (u' := u') hu rfl j,
    fun _ hj => ⟨fun _ => bind_getElem?_set_other hj _ _, fun a => ?_⟩, fun ⟨hdl, hgp⟩ => ⟨forall_mem_set hdl ?_, hgp⟩⟩
  · exact congrArg (Option.map fun x : Dl => x.ring.buf.read a) (List.getElem?_set_ne (Ne.symm hj))
  · rw [hring]
    exact bufWrite_ok (hdl u (List.mem_of_getElem? hu)) v

/-- R82: the buffer of one GP takes one sample. -/
theorem oneBank_setGp {u u' : Gp} (hu : s.gp[n.toNat]? = some u) (hp : paramGp u' = paramGp u) {v : Word}
    (hring : u'.ring = bufWrite u.ring v) : OneBank .gp n.toNat s (s.setGp n u') := by
  have hcap : u'.ring.cap = u.ring.cap := by rw [hring, bufWrite_cap]
  refine ⟨rfl, rfl, rfl, by simp [banksKept],
    by simp [State.config, map_set_of_eq (f := fun x => x.ring.cap) hu hcap],
    fun j idx => bind_getElem?_set (f := (paramGp · idx)) hu (congrFun hp idx) j,
    fun _ hj => ⟨fun _ => bind_getElem?_set_other hj _ _, fun a => ?_⟩, fun ⟨hdl, hgp⟩ => ⟨hdl, forall_mem_set hgp ?_⟩⟩
  · exact congrArg (Option.map fun x : Gp => x.ring.buf.read a) (List.getElem?_set_ne (Ne.symm hj))
  · rw [hring]
    exact bufWrite_ok (hgp u (List.mem_of_getElem? hu)) v

end Banks

/-! ## Resets (R350, R351) -/

theorem bankStateKept_resetInstance_other (s : State) (u : UnitName) {n j : Nat} (hj : j ≠ n) :
    BankStateKept u j s (s.resetInstance u n) := by
  have hother {α : Type} (l : List α) (f : α → α) : (l.modify n f)[j]? = l[j]? := by
    rw [getElem?_modify_ite, if_neg (Ne.symm hj)]
  constructor
  · intro idx
    cases u <;> simp only [State.stateReg?, State.resetInstance, hother]
  · intro a
    cases u <;> simp [State.slot?, State.resetInstance, hother]

theorem buffersOk_resetInstance {s : State} (h : BuffersOk s) (u : UnitName) (n : Nat) :
    BuffersOk (s.resetInstance u n) := by
  obtain ⟨hdl, hgp⟩ := h
  cases u
  case dl => exact ⟨forall_mem_modify hdl fun x hx => resetRing_keeps_ok (hdl x hx), hgp⟩
  case gp => exact ⟨hdl, forall_mem_modify hgp fun x hx => resetRing_keeps_ok (hgp x hx)⟩
  all_goals exact ⟨hdl, hgp⟩

theorem oneBank_resetInstance (s : State) (u : UnitName) (n : Nat) : OneBank u n s (s.resetInstance u n) := by
  obtain ⟨-, -, hb, -⟩ := resetInstance_frame s u n
  have hk := paramsKept_resetInstance s u n
  exact ⟨by simp, by simp, by simp, hb, hk.config, hk.param u, fun _ => bankStateKept_resetInstance_other s u,
    fun h => buffersOk_resetInstance h u n⟩

/-- RST of every unit: its reach is the state of every bank and nothing else. -/
theorem reach_resetAll (s : State) (n : InstNo) : Reach (.rst .all n) s s.resetAll := by
  have hk := paramsKept_resetAll s
  refine ⟨.of_eq rfl, regsKept_of_eq rfl rfl _, hk.config, fun _ => hk.param, fun u j hm => ?_,
    fun ⟨hdl, hgp⟩ => ⟨?_, ?_⟩, fun _ => hk.paramsOk⟩
  · simp [mayChangeState] at hm
  · exact List.forall_mem_map.2 fun x hx => resetRing_keeps_ok (hdl x hx)
  · exact List.forall_mem_map.2 fun x hx => resetRing_keeps_ok (hgp x hx)

/-! ## Parameter writes (R41, R42) -/

/-- A parameter write leaves the state registers and the buffers of its unit alone. -/
theorem bankStateKept_setParam (s : State) (u : UnitName) (n idx : Nat) (v : Word) (u' : UnitName) (j : Nat) :
    BankStateKept u' j s (s.setParam u n idx v) := by
  by_cases hu : u' = u
  case neg =>
    obtain ⟨-, -, hb, -⟩ := setParam_frame s u n idx v
    exact bankStateKept_of_banksKept hb (by simpa using hu) j
  subst hu
  constructor
  · intro idx'
    cases u'
    case global | all => rfl
    all_goals
      refine bind_getElem?_modify (fun x => ?_) n j
      simp only [setParamBq, setParamLp, setParamHp, setParamSc, setParamDl, setParamDc, setParamLi, setParamDs,
        setParamXo, setParamMd, setParamNco, setParamZc, setParamEnv, setParamGp]
    all_goals split <;> rfl
  · intro a
    cases u'
    case gp =>
      have hread (x : Gp) : (setParamGp x v idx).ring.buf.read a = x.ring.buf.read a := by
        unfold setParamGp; split <;> rfl
      simp only [State.slot?, State.setParam, reduceCtorEq, if_false, if_true, Option.map_eq_bind]
      exact bind_getElem?_modify (f := fun x : Gp => some (x.ring.buf.read a)) (fun x => congrArg some (hread x)) n j
    case dl =>
      simp only [State.slot?, State.setParam, if_true, Option.map_eq_bind]
      exact bind_getElem?_modify (f := fun x : Dl => some (x.ring.buf.read a)) (fun x => rfl) n j
    all_goals rfl

theorem buffersOk_setParam {s : State} (h : BuffersOk s) (u : UnitName) (n idx : Nat) (v : Word) :
    BuffersOk (s.setParam u n idx v) := by
  obtain ⟨hdl, hgp⟩ := h
  have hring (x : Gp) : (setParamGp x v idx).ring = x.ring := by unfold setParamGp; split <;> rfl
  cases u
  case global => simp only [State.setParam]; split <;> exact ⟨hdl, hgp⟩
  case dl => exact ⟨forall_mem_modify hdl hdl, hgp⟩
  case gp => exact ⟨hdl, forall_mem_modify hgp fun x hx => by rw [hring]; exact hgp x hx⟩
  all_goals exact ⟨hdl, hgp⟩

theorem reach_setParam {i : Instr} (hw : writesParams i = true) {s : State} {u : UnitName} {n idx : Nat} {v : Word}
    {name : String} {c : ParamClass} (hc : (paramTable u)[idx]? = some (name, c)) (hv : ShapeOk s → ParamOk s n c v) :
    Reach i s (s.setParam u n idx v) :=
  ⟨.of_eq (by simp), regsKept_of_eq (by simp) (by simp) _, setParam_config s u n idx v,
    fun h => Bool.noConfusion (hw.symm.trans h), fun u' j _ => bankStateKept_setParam s u n idx v u' j,
    fun h => buffersOk_setParam h u n idx v, fun hshape h => paramsOk_setParam h hc (hv hshape)⟩

theorem reach_paramWrite {i : Instr} (hw : writesParams i = true) {s : State} {u : UnitName} {n : Nat}
    (hn : n < s.count u) (idx : Nat) (x : Word) : Reach i s (s.paramWrite u n idx x) := by
  cases hx : F32.isNaN x
  case true => rw [paramWrite_nan hx]; exact reach_setFlags s (by simp [flagMasks])
  case false =>
    cases hc : (paramTable u)[idx]? with
    | none =>
      unfold State.paramWrite
      rw [if_neg (by simp [hx]), hc]
      exact reach_refl s
    | some p =>
      obtain ⟨name, c⟩ := p
      rw [paramWrite_value hx hc]
      generalize (!F32.eq (F32.clamp x (s.classRange n c).1 (s.classRange n c).2) x) = b
      have hconf := setFlagIf_config s b pclampMask
      refine (reach_setFlagIf s b (by simp [flagMasks])).trans (reach_setParam hw hc fun hshape => ?_)
      rw [ShapeOk, hconf] at hshape
      have hglen : c = .glen → n < s.gp.length := by
        rintro rfl
        rw [unit_of_glen hc] at hn
        exact hn
      unfold ParamOk
      rw [classRange_of_config hconf]
      exact paramOk_storedParam hshape hglen hx

/-! ## Every command stays inside its reach -/

/-- The outcome, if it is a next state, is inside the reach of `i` from `s`. -/
def StaysInReach (i : Instr) (s : State) (r : Result) : Prop := ∀ t, r = .next t → Reach i s t

theorem staysInReach_next {i : Instr} {s t : State} (h : Reach i s t) : StaysInReach i s (.next t) := by
  intro t' ht
  cases ht
  exact h

section Commands

variable (s : State)

theorem staysInReach_reject {i : Instr} (c : Cause) : StaysInReach i s (.next (s.reject c)) :=
  staysInReach_next (reach_reject s c)

theorem staysInReach_result {i : Instr} {rd : Reg} (hrd : rd ∈ dests i) (nv : List Word) (y : Word) :
    StaysInReach i s (.next (s.result nv rd y)) := staysInReach_next (reach_result s hrd nv y)

theorem staysInReach_writeReg {i : Instr} {rd : Reg} (hrd : rd ∈ dests i) (y : Word) :
    StaysInReach i s (.next (s.writeReg rd y)) := staysInReach_next (reach_writeReg s hrd y)

/-- The common end of the step commands: the new bank, then the result. -/
theorem staysInReach_bank_result {i : Instr} {u : UnitName} {n : Nat} {rd : Reg} {s t : State} (h : OneBank u n s t)
    (hm : mayChangeState i u n = true) (hrd : rd ∈ dests i) (nv : List Word) (y : Word) :
    StaysInReach i s (.next (t.result nv rd y)) :=
  staysInReach_next ((h.reach hm).trans (reach_result t hrd nv y))

/-! ### Control commands -/

theorem execRst_staysInReach (u : UnitName) (inst : InstNo) : StaysInReach (.rst u inst) s (execRst u inst s) := by
  unfold execRst
  split
  · exact staysInReach_reject s _
  · split
    · rename_i hu
      subst hu
      exact staysInReach_next (reach_resetAll s inst)
    · exact staysInReach_next ((oneBank_resetInstance s u _).reach (by simp [mayChangeState]))

theorem execSetp_staysInReach (ra : Reg) (u : UnitName) (inst : InstNo) (idx : Idx) :
    StaysInReach (.setp ra u inst idx) s (execSetp ra u inst idx s) := by
  unfold execSetp
  split
  · exact staysInReach_reject s _
  · split
    · exact staysInReach_reject s _
    · rename_i hn
      split
      · exact staysInReach_reject s _
      · exact staysInReach_next (reach_paramWrite rfl (not_le.1 hn) _ _)

theorem execGetp_staysInReach (rd : Reg) (u : UnitName) (inst : InstNo) (idx : Idx) :
    StaysInReach (.getp rd u inst idx) s (execGetp rd u inst idx s) := by
  unfold execGetp
  split
  · exact staysInReach_reject s _
  · split
    · exact staysInReach_reject s _
    · split
      · exact staysInReach_reject s _
      · exact staysInReach_writeReg s (by simp [dests]) _

theorem execGets_staysInReach (rd : Reg) (u : UnitName) (inst : InstNo) (idx : Idx) :
    StaysInReach (.gets rd u inst idx) s (execGets rd u inst idx s) := by
  unfold execGets
  split
  · exact staysInReach_reject s _
  · split
    · exact staysInReach_reject s _
    · split
      · exact staysInReach_reject s _
      · exact staysInReach_writeReg s (by simp [dests]) _

theorem execCoef_staysInReach (ra : Reg) (u : UnitName) (inst : InstNo) :
    StaysInReach (.coef ra u inst) s (execCoef ra u inst s) := by
  unfold execCoef
  split
  · exact staysInReach_reject s _
  · split
    · exact staysInReach_reject s _
    · rename_i hn
      dsimp only
      split
      · exact staysInReach_next (reach_setFlags s (by simp [flagMasks]))
      · generalize (!F32.eq (designCutoff (s.freg ra) s.fs) (s.freg ra)) = b
        refine staysInReach_next ((reach_setFlagIf s b (by simp [flagMasks])).trans (reach_paramWrite rfl ?_ _ _))
        rw [count_of_config (setFlagIf_config s b pclampMask)]
        exact not_le.1 hn

/-! ### Sample conversions -/

theorem execCvtfiSym_staysInReach (rd ra : Reg) : StaysInReach (.cvtfiSym rd ra) s (execCvtfiSym rd ra s) := by
  unfold execCvtfiSym
  dsimp only
  split
  · exact staysInReach_result s (by simp [dests]) _ _
  · exact staysInReach_next (reach_writeSample s (by simp [dests]) _)

theorem execCvtfiAsym_staysInReach (rd ra : Reg) : StaysInReach (.cvtfiAsym rd ra) s (execCvtfiAsym rd ra s) := by
  unfold execCvtfiAsym
  dsimp only
  split
  · exact staysInReach_result s (by simp [dests]) _ _
  · exact staysInReach_next (reach_writeSample s (by simp [dests]) _)

/-! ### Step commands -/

theorem execBqStep_staysInReach (rd ra : Reg) (inst : InstNo) :
    StaysInReach (.bqStep rd ra inst) s (execBqStep rd ra inst s) := by
  unfold execBqStep
  split
  · exact staysInReach_reject s _
  · rename_i u hu
    exact staysInReach_bank_result (oneBank_setBq hu (by rfl)) (by simp [mayChangeState]) (by simp [dests]) _ _

theorem execLpStep_staysInReach (rd ra : Reg) (inst : InstNo) :
    StaysInReach (.lpStep rd ra inst) s (execLpStep rd ra inst s) := by
  unfold execLpStep
  split
  · exact staysInReach_reject s _
  · rename_i u hu
    exact staysInReach_bank_result (oneBank_setLp hu (by rfl)) (by simp [mayChangeState]) (by simp [dests]) _ _

theorem execHpStep_staysInReach (rd ra : Reg) (inst : InstNo) :
    StaysInReach (.hpStep rd ra inst) s (execHpStep rd ra inst s) := by
  unfold execHpStep
  split
  · exact staysInReach_reject s _
  · rename_i u hu
    exact staysInReach_bank_result (oneBank_setHp hu (by rfl)) (by simp [mayChangeState]) (by simp [dests]) _ _

theorem execScStep_staysInReach (rd ra : Reg) (inst : InstNo) :
    StaysInReach (.scStep rd ra inst) s (execScStep rd ra inst s) := by
  unfold execScStep
  split
  · exact staysInReach_reject s _
  · exact staysInReach_result s (by simp [dests]) _ _

theorem execDlWr_staysInReach (ra : Reg) (inst : InstNo) :
    StaysInReach (.dlWr ra inst) s (execDlWr ra inst s) := by
  unfold execDlWr
  split
  · exact staysInReach_reject s _
  · rename_i u hu
    exact staysInReach_next (((oneBank_setDl hu (by rfl)).reach (by simp [mayChangeState])).trans (reach_stickyNV _ _))

theorem execDlRd_staysInReach (rd ra : Reg) (inst : InstNo) :
    StaysInReach (.dlRd rd ra inst) s (execDlRd rd ra inst s) := by
  unfold execDlRd
  split
  · exact staysInReach_reject s _
  · exact staysInReach_result s (by simp [dests]) _ _

theorem execDcStep_staysInReach (rd ra : Reg) (inst : InstNo) :
    StaysInReach (.dcStep rd ra inst) s (execDcStep rd ra inst s) := by
  unfold execDcStep
  split
  · exact staysInReach_reject s _
  · rename_i u hu
    exact staysInReach_bank_result (oneBank_setDc hu (by rfl)) (by simp [mayChangeState]) (by simp [dests]) _ _

theorem execLiStep_staysInReach (rd ra rb : Reg) (inst : InstNo) :
    StaysInReach (.liStep rd ra rb inst) s (execLiStep rd ra rb inst s) := by
  unfold execLiStep
  split
  · exact staysInReach_reject s _
  · rename_i u hu
    exact staysInReach_bank_result (oneBank_setLi hu (by rfl)) (by simp [mayChangeState]) (by simp [dests]) _ _

theorem execDsStep_staysInReach (rd ra : Reg) (inst : InstNo) :
    StaysInReach (.dsStep rd ra inst) s (execDsStep rd ra inst s) := by
  unfold execDsStep
  split
  · exact staysInReach_reject s _
  · rename_i u hu
    exact staysInReach_bank_result (oneBank_setDs hu (by rfl)) (by simp [mayChangeState]) (by simp [dests]) _ _

/-- R242: the pair is two destinations. -/
theorem execXoStep_staysInReach (rd ra : Reg) (inst : InstNo) :
    StaysInReach (.xoStep rd ra inst) s (execXoStep rd ra inst s) := by
  unfold execXoStep
  split
  · exact staysInReach_reject s _
  · rename_i u hu
    split
    · exact staysInReach_reject s _
    · refine staysInReach_next ((OneBank.reach (oneBank_setXo hu ?_) ?_).trans ((reach_result _ ?_ _ _).trans
        (reach_writeReg _ ?_ _)))
      · rfl
      all_goals simp [mayChangeState, dests]

theorem execMdStep_staysInReach (rd ra : Reg) (inst : InstNo) :
    StaysInReach (.mdStep rd ra inst) s (execMdStep rd ra inst s) := by
  unfold execMdStep
  split
  · exact staysInReach_reject s _
  · split
    · exact staysInReach_reject s _
    · exact staysInReach_result s (by simp [dests]) _ _

theorem execNcoStep_staysInReach (rd ra : Reg) (inst : InstNo) :
    StaysInReach (.ncoStep rd ra inst) s (execNcoStep rd ra inst s) := by
  unfold execNcoStep
  split
  · exact staysInReach_reject s _
  · rename_i u hu
    exact staysInReach_bank_result (oneBank_setNco hu (by rfl)) (by simp [mayChangeState]) (by simp [dests]) _ _

theorem execZcStep_staysInReach (rd ra rb : Reg) (inst : InstNo) :
    StaysInReach (.zcStep rd ra rb inst) s (execZcStep rd ra rb inst s) := by
  unfold execZcStep
  split
  · exact staysInReach_reject s _
  · rename_i u hu
    exact staysInReach_bank_result (oneBank_setZc hu (paramZc_zcStep u s.fs _ _)) (by simp [mayChangeState])
      (by simp [dests]) _ _

theorem execEnvStep_staysInReach (rd ra : Reg) (inst : InstNo) :
    StaysInReach (.envStep rd ra inst) s (execEnvStep rd ra inst s) := by
  unfold execEnvStep
  split
  · exact staysInReach_reject s _
  · rename_i u hu
    exact staysInReach_bank_result (oneBank_setEnv hu (by rfl)) (by simp [mayChangeState]) (by simp [dests]) _ _

theorem execGpStep_staysInReach (rd ra : Reg) (inst : InstNo) :
    StaysInReach (.gpStep rd ra inst) s (execGpStep rd ra inst s) := by
  unfold execGpStep
  split
  · exact staysInReach_reject s _
  · rename_i u hu
    exact staysInReach_bank_result (oneBank_setGp hu (by rfl) (by rfl)) (by simp [mayChangeState]) (by simp [dests])
      _ _

/-- Every command stays inside its reach. The scalar commands end in one write of a register. -/
theorem exec_staysInReach (i : Instr) : StaysInReach i s (exec i s) := by
  cases i with
  | nop => exact staysInReach_next (reach_refl s)
  | rst u inst => exact execRst_staysInReach s u inst
  | setp ra u inst idx => exact execSetp_staysInReach s ra u inst idx
  | getp rd u inst idx => exact execGetp_staysInReach s rd u inst idx
  | gets rd u inst idx => exact execGets_staysInReach s rd u inst idx
  | coef ra u inst => exact execCoef_staysInReach s ra u inst
  | ldhi | orlo | mov | cvtifSym | cvtifAsym => exact staysInReach_writeReg s (by simp [dests]) _
  | fadd | fsub | fmul | clamp | lerp | satAtan | satTanh | sin2pi | cos2pi =>
    exact staysInReach_result s (by simp [dests]) _ _
  | cvtfiSym rd ra => exact execCvtfiSym_staysInReach s rd ra
  | cvtfiAsym rd ra => exact execCvtfiAsym_staysInReach s rd ra
  | bqStep rd ra inst => exact execBqStep_staysInReach s rd ra inst
  | lpStep rd ra inst => exact execLpStep_staysInReach s rd ra inst
  | hpStep rd ra inst => exact execHpStep_staysInReach s rd ra inst
  | scStep rd ra inst => exact execScStep_staysInReach s rd ra inst
  | dlWr ra inst => exact execDlWr_staysInReach s ra inst
  | dlRd rd ra inst => exact execDlRd_staysInReach s rd ra inst
  | dcStep rd ra inst => exact execDcStep_staysInReach s rd ra inst
  | liStep rd ra rb inst => exact execLiStep_staysInReach s rd ra rb inst
  | dsStep rd ra inst => exact execDsStep_staysInReach s rd ra inst
  | xoStep rd ra inst => exact execXoStep_staysInReach s rd ra inst
  | mdStep rd ra inst => exact execMdStep_staysInReach s rd ra inst
  | ncoStep rd ra inst => exact execNcoStep_staysInReach s rd ra inst
  | zcStep rd ra rb inst => exact execZcStep_staysInReach s rd ra rb inst
  | envStep rd ra inst => exact execEnvStep_staysInReach s rd ra inst
  | gpStep rd ra inst => exact execGpStep_staysInReach s rd ra inst

end Commands

end Sys2Proof.Machine

/-! SUPPORT. One step of the machine (20_memory.md R86 to R89): what each bus event comes to, and what a step can
do. -/

namespace Sys2Proof.Machine

/-! ## What a bus event comes to -/

/-- R86: the check of an access that is performed leaves its result. -/
theorem checkAccess_performed {addr : Nat} (ha : addr % 4 = 0) (hlt : addr < 0x1000) (r : Result) :
    checkAccess addr 4 r = r := by
  rw [checkAccess, if_neg (not_le.2 hlt), if_pos (by simp [performed, ha])]

/-- An access ends in a next state only through its own result. -/
theorem checkAccess_next {addr width : Nat} {r : Result} {t : State} (h : checkAccess addr width r = .next t) :
    r = .next t := by
  unfold checkAccess at h
  split_ifs at h
  exact h

theorem step_read {s : State} {rest : List BusEvent} {addr : Nat} (h : s.bus = .read addr 4 :: rest)
    (ha : addr % 4 = 0) (hlt : addr < 0x1000) :
    step s = .next { s with bus := rest, readData := busRead s addr } := by
  rw [step, busStep, h]
  exact checkAccess_performed ha hlt _

theorem step_write {s : State} {rest : List BusEvent} {addr : Nat} {v : Word} (h : s.bus = .write addr 4 v :: rest)
    (ha : addr % 4 = 0) (hlt : addr < 0x1000) : step s = busWrite addr v { s with bus := rest } := by
  rw [step, busStep, h]
  exact checkAccess_performed ha hlt _

theorem busWrite_next {addr : Nat} {v : Word} {s t : State} (h : busWrite addr v s = .next t) :
    banksKept [] s t ∨ ∃ i, exec i s = .next t := by
  unfold busWrite at h
  split_ifs at h
  · cases h; exact .inl (by simp [banksKept])
  · unfold runCommand at h
    split at h
    · exact .inr ⟨_, h⟩
    · cases h; exact .inl (by simp [banksKept])
  · cases h; exact .inl (by simp [banksKept])
  · cases h; exact .inl (by simp [banksKept])

/-- All a step can do: a host access leaves FS, the banks and the buffers alone, or runs one command; a power cycle
enters power-on reset. -/
theorem step_next {s t : State} (h : step s = .next t) :
    banksKept [] s t ∨ (∃ rest i, exec i { s with bus := rest } = .next t) ∨
      ∃ rest, t = { powerOn s.config with bus := rest } := by
  unfold step busStep at h
  split at h
  · cases h; exact .inl (by simp [banksKept])
  · rename_i e rest _
    cases e with
    | read addr width =>
      cases checkAccess_next h
      exact .inl (by simp [banksKept])
    | write addr width v =>
      rcases busWrite_next (checkAccess_next h) with hb | ⟨i, hi⟩
      · exact .inl hb
      · exact .inr (.inl ⟨rest, i, hi⟩)
    | powerCycle =>
      cases h
      exact .inr (.inr ⟨rest, rfl⟩)

/-- A property of FS, the banks and the buffers that every command and power-on reset keep is kept by every step. -/
theorem step_keeps {P : State → Prop} (hbanks : ∀ {s t : State}, banksKept [] s t → P s → P t)
    (hexec : ∀ {i : Instr} {s t : State}, exec i s = .next t → P s → P t)
    (hpower : ∀ {s : State}, P s → P (powerOn s.config)) {s t : State} (hs : P s) (h : step s = .next t) : P t := by
  rcases step_next h with hb | ⟨rest, i, hi⟩ | ⟨rest, rfl⟩
  · exact hbanks hb hs
  · exact hexec hi (hbanks (by simp [banksKept]) hs)
  · exact hbanks (by simp [banksKept]) (hpower hs)

/-! ## Invariants of every step -/

/-- R65, R73: a power cycle leaves every buffer empty. -/
theorem buffersOk_powerOn {s : State} (h : BuffersOk s) : BuffersOk (powerOn s.config) := by
  obtain ⟨hdl, hgp⟩ := h
  constructor
  · refine List.forall_mem_map.2 fun cap hcap => ?_
    obtain ⟨u, hu, rfl⟩ := List.mem_map.1 hcap
    exact powerOnRing_ok (Nat.zero_lt_of_lt (hdl u hu).1)
  · refine List.forall_mem_map.2 fun cap hcap => ?_
    obtain ⟨u, hu, rfl⟩ := List.mem_map.1 hcap
    exact powerOnRing_ok (Nat.zero_lt_of_lt (hgp u hu).1)

/-- Settles O21: the only buffer writes are BufWrite and the resets. -/
theorem stepKeepsBuffersOk : Obligations.StepKeepsBuffersOk := fun _ _ =>
  step_keeps buffersOk_of_banksKept (fun h => (exec_staysInReach _ _ _ h).buffersOk) buffersOk_powerOn

/-- Settles O22: a legal configuration and legal parameters are kept together, since the ranges of R40 depend on the
configuration. -/
theorem stepKeepsParamsOk : Obligations.StepKeepsParamsOk := by
  intro s t hshape hparams hstep
  have hboth : ShapeOk t ∧ ParamsOk t := by
    refine step_keeps (P := fun s => ShapeOk s ∧ ParamsOk s) ?_ ?_ ?_ ⟨hshape, hparams⟩ hstep
    · intro s t hb ⟨hs, hp⟩
      have hk := paramsKept_of_banksKept hb
      exact ⟨hk.shapeOk hs, hk.paramsOk hp⟩
    · intro i s t h ⟨hs, hp⟩
      have hreach := exec_staysInReach s i t h
      exact ⟨by rw [ShapeOk, hreach.config]; exact hs, hreach.paramsOk hs hp⟩
    · intro s ⟨hs, _⟩
      exact ⟨by rw [ShapeOk, powerOn_config]; exact hs, powerOn_paramsOk hs⟩
  exact hboth.2

/-! ## The masks of STATUS, bit by bit (R34) -/

theorem stickyMask_bit (b : Nat) : stickyMask.getLsbD b = decide (b < 5) := by
  rcases lt_or_ge b 32 with hb | hb
  · interval_cases b <;> rfl
  · rw [BitVec.getLsbD_of_ge _ _ hb, eq_comm, decide_eq_false_iff_not]
    omega

theorem causeMask_bit (b : Nat) : causeMask.getLsbD b = (decide (8 ≤ b) && decide (b < 12)) := by
  rcases lt_or_ge b 32 with hb | hb
  · interval_cases b <;> rfl
  · rw [BitVec.getLsbD_of_ge _ _ hb, eq_comm, Bool.and_eq_false_iff, decide_eq_false_iff_not,
      decide_eq_false_iff_not]
    omega

theorem statusMask_bit (b : Nat) :
    statusMask.getLsbD b = (decide (b < 5) || (decide (8 ≤ b) && decide (b < 12))) := by
  rw [← stickyMask_bit, ← causeMask_bit, ← BitVec.getLsbD_or]
  rfl

/-! ## Frames over every command -/

theorem StatusGrows.sticky_and {s t : State} (h : StatusGrows s t) : s.status &&& 0x0000001F &&& ~~~t.status = 0 := by
  refine BitVec.eq_of_getLsbD_eq fun b hb => ?_
  have hmask : (0x0000001F : Word).getLsbD b = decide (b < 5) := stickyMask_bit b
  have hzero : (0 : Word).getLsbD b = false := BitVec.getLsbD_zero
  rw [BitVec.getLsbD_and, BitVec.getLsbD_and, BitVec.getLsbD_not, hmask, hzero]
  cases hs : s.status.getLsbD b
  · rfl
  · rcases lt_or_ge b 5 with h5 | h5
    · rw [h.sticky b h5 hs, Bool.not_true, Bool.and_false, Bool.and_false]
    · rw [decide_eq_false (not_lt.2 h5), Bool.and_false, Bool.false_and]

/-- Settles O14: STATUS under a command is part of its reach. -/
theorem commandsOnlySetStatusBits : Obligations.CommandsOnlySetStatusBits := by
  intro i s t h
  have hstatus := (exec_staysInReach s i t h).status
  exact ⟨hstatus.sticky_and, hstatus.reserved, hstatus.cause⟩

/-- Settles O16: the destinations are part of a command's reach. -/
theorem onlyDestinationRegistersChange : Obligations.OnlyDestinationRegistersChange := fun i s t h =>
  (exec_staysInReach s i t h).regs

/-- Settles O17: the parameters and the bank a command may change are part of its reach. -/
theorem unitsOwnTheirState : Obligations.UnitsOwnTheirState := by
  intro i s t h
  have hreach := exec_staysInReach s i t h
  exact ⟨hreach.params, fun u j hm => ⟨(hreach.banks u j hm).reg, (hreach.banks u j hm).slot⟩⟩

end Sys2Proof.Machine

/-! SUPPORT. The canonical form of a buffer's contents (log 12): equal reads are equal data. -/

namespace Sys2Proof.Machine

theorem cellsWf_cons {lo : Option Nat} {k : Nat} {v : Word} {rest : List Slot}
    (h : cellsWf lo ((k, v) :: rest) = true) : v ≠ Memory.unlisted ∧ cellsWf (some k) rest = true := by
  simp only [cellsWf, Bool.and_eq_true, bne_iff_ne] at h
  exact ⟨h.1.2, h.2⟩

/-- A canonical list reads differently from any list whose indices all lie above its first one. -/
theorem readCells_ne_of_lt {lo : Option Nat} {k : Nat} {v : Word} {rest l : List Slot}
    (h : cellsWf lo ((k, v) :: rest) = true) (hl : ∀ c ∈ l, k < c.1) :
    readCells ((k, v) :: rest) k ≠ readCells l k := by
  rw [readCells_of_lt hl, readCells, if_pos rfl]
  exact (cellsWf_cons h).1

theorem cells_ext : ∀ {lo lo' : Option Nat} {l l' : List Slot}, cellsWf lo l = true → cellsWf lo' l' = true →
    (∀ a, readCells l a = readCells l' a) → l = l'
  | _, _, [], [], _, _, _ => rfl
  | _, _, [], (k, _) :: _, _, h', hread => absurd (hread k).symm (readCells_ne_of_lt h' (by simp))
  | _, _, (k, _) :: _, [], h, _, hread => absurd (hread k) (readCells_ne_of_lt h (by simp))
  | lo, lo', (k, v) :: rest, (k', v') :: rest', h, h', hread => by
    have hbound := cellsWf_bound (cellsWf_cons h).2
    have hbound' := cellsWf_bound (cellsWf_cons h').2
    rcases lt_trichotomy k k' with hlt | rfl | hlt
    · exact absurd (hread k) (readCells_ne_of_lt h
        (List.forall_mem_cons.2 ⟨hlt, fun c hc => hlt.trans (hbound' c hc)⟩))
    · have hv : v = v' := by simpa only [readCells, if_true] using hread k
      have hrest : rest = rest' := by
        refine cells_ext (cellsWf_cons h).2 (cellsWf_cons h').2 fun a => ?_
        by_cases ha : k = a
        · subst ha
          rw [readCells_of_lt hbound, readCells_of_lt hbound']
        · simpa only [readCells, if_neg ha] using hread a
      rw [hv, hrest]
    · exact absurd (hread k').symm (readCells_ne_of_lt h'
        (List.forall_mem_cons.2 ⟨hlt, fun c hc => hlt.trans (hbound c hc)⟩))

/-- Settles O46, by induction on the two lists of slots. -/
theorem equalContentsAreEqualData : Obligations.EqualContentsAreEqualData := fun _ _ h h' hread =>
  congrArg Memory.mk (cells_ext h h' hread)

end Sys2Proof.Machine

/-! SUPPORT. The address map (20_memory.md R87) and STATUS as the host sees it (10_state.md R35). -/

namespace Sys2Proof.Machine

/-- Settles O5: a word written to CMD is decoded and run. -/
theorem stepRunsTheCommandWritten : Obligations.StepRunsTheCommandWritten := by
  intro s rest w i hbus hdecode
  rw [step_write hbus (by decide) (by decide), busWrite, if_neg (by decide), if_pos rfl, runCommand, hdecode]

/-! ## The rows of the map -/

theorem dataRegAt_four_mul (n : Reg) : dataRegAt (4 * n.toNat) = n := by
  rw [dataRegAt, Nat.mul_div_cancel_left _ (by decide), BitVec.ofNat_toNat, BitVec.setWidth_eq]

/-- R87: what each row of the map reads as; CMD reads 0 like the reserved rows. -/
theorem busRead_map (s : State) (addr : Nat) :
    busRead s addr =
      if addr < 0x040 then s.reg (BitVec.ofNat 4 (addr / 4))
      else if addr = 0x040 then 0x00000000
      else if addr = 0x044 then s.status &&& 0x00000F1F
      else if addr = 0x048 then 0x44535031
      else 0x00000000 := by
  by_cases hcmd : addr = 0x040
  · subst hcmd; rfl
  · rw [if_neg hcmd]; rfl

theorem busWrite_dataReg (n : Reg) (v : Word) (s : State) :
    busWrite (4 * n.toNat) v s = .next (s.writeReg n v) := by
  have hn := n.isLt
  rw [busWrite, if_pos (by omega), dataRegAt_four_mul]

theorem busWrite_ignored {addr : Nat} (h : 0x048 ≤ addr) (v : Word) (s : State) : busWrite addr v s = .next s := by
  rw [busWrite, if_neg (by omega), if_neg (by omega), if_neg (by omega)]

/-- Settles O7: one clause for reads, one for the data registers, one for the addresses that ignore writes. -/
theorem hostAccessesFollowTheMap : Obligations.HostAccessesFollowTheMap := by
  intro s rest addr
  refine ⟨fun hbus ha hlt => ?_, fun n v hbus => ?_, fun v hbus ha hmin hlt => ?_⟩
  · rw [step_read hbus ha hlt, busRead_map]
  · have hn := n.isLt
    rw [step_write hbus (by omega) (by omega), busWrite_dataReg]
    obtain ⟨hholds, hkept, hstatus, hbanks, hbus', hdata⟩ := writeReg_spec { s with bus := rest } n v
    exact ⟨_, rfl, hholds, hkept, rfl, hbanks, hbus', hdata⟩
  · rw [step_write hbus ha hlt, busWrite_ignored hmin]

/-! ## STATUS, bit by bit (R35) -/

/-- R35, bit by bit: a flag written as 1 is cleared, and CAUSE with ILL. -/
theorem writeStatus_bit (s : State) (v : Word) (b : Nat) :
    (s.writeStatus v).status.getLsbD b =
      (s.status.getLsbD b && !(v.getLsbD b && decide (b < 5)) &&
        !(v.getLsbD 0 && (decide (8 ≤ b) && decide (b < 12)))) := by
  rcases lt_or_ge b 32 with hb | hb
  · have hcause : (if v.getLsbD 0 then ~~~causeMask else BitVec.allOnes 32).getLsbD b =
        !(v.getLsbD 0 && (decide (8 ≤ b) && decide (b < 12))) := by
      rw [← causeMask_bit]
      cases v.getLsbD 0
      · rw [if_neg Bool.false_ne_true, BitVec.getLsbD_allOnes, decide_eq_true hb, Bool.false_and, Bool.not_false]
      · rw [if_pos rfl, BitVec.getLsbD_not, decide_eq_true hb, Bool.true_and, Bool.true_and]
    rw [writeStatus_status, BitVec.getLsbD_and, hcause, BitVec.getLsbD_and, BitVec.getLsbD_not, BitVec.getLsbD_and,
      stickyMask_bit, decide_eq_true hb, Bool.true_and]
  · simp only [BitVec.getLsbD_of_ge _ b hb, Bool.false_and]

theorem readStatus_bit (s : State) (b : Nat) :
    s.readStatus.getLsbD b =
      (s.status.getLsbD b && (decide (b < 5) || (decide (8 ≤ b) && decide (b < 12)))) := by
  rw [State.readStatus, BitVec.getLsbD_and, statusMask_bit]

/-- Settles O8: the write and the read of STATUS, bit by bit. -/
theorem statusWriteClearsOnes : Obligations.StatusWriteClearsOnes := by
  intro s rest
  refine ⟨fun v hbus => ?_, fun hbus => ?_⟩
  · refine ⟨({ s with bus := rest } : State).writeStatus v, step_write hbus (by decide) (by decide), rfl,
      fun b hb => ?_, fun b h8 h12 => ?_, fun b h5 hb => ?_⟩
    · rw [writeStatus_bit]
      simp [hb, show ¬ 8 ≤ b by omega]
    · rw [writeStatus_bit]
      simp [h8, h12, show ¬ b < 5 by omega]
    · rw [writeStatus_bit]
      rcases hb with hb | hb
      · simp [show ¬ b < 5 by omega, show ¬ 8 ≤ b by omega]
      · simp [show ¬ b < 5 by omega, show ¬ b < 12 by omega]
  · exact ⟨s.readStatus, step_read hbus (by decide) (by decide), readStatus_bit s⟩

end Sys2Proof.Machine

/-! SUPPORT. Two runs of one command: states that differ only where the command does not look stay related
(10_state.md R32, R74; 60_exceptions.md R322). -/

namespace Sys2Proof.Machine

/-! ## Relations that every command keeps -/

/-- `f` changes FS and the banks only, by what they hold: it reads and writes neither the data registers nor STATUS. -/
structure BankChange (f : State → State) : Prop where
  commutes : ∀ (s : State) (d : Vector Word 16) (st : Word),
    f { s with d := d, status := st } = { f s with d := d, status := st }
  written : ∀ s, (f s).written = s.written

theorem BankChange.d {f : State → State} (hf : BankChange f) (s : State) : (f s).d = s.d :=
  (congrArg State.d (hf.commutes s s.d s.status) :)

theorem BankChange.status {f : State → State} (hf : BankChange f) (s : State) : (f s).status = s.status :=
  (congrArg State.status (hf.commutes s s.d s.status) :)

theorem bankChange_setParam (u : UnitName) (n idx : Nat) (v : Word) : BankChange (·.setParam u n idx v) where
  commutes s d st := by
    cases u
    case global => simp only [State.setParam]; split <;> rfl
    all_goals rfl
  written s := setParam_written s u n idx v

theorem bankChange_resetInstance (u : UnitName) (n : Nat) : BankChange (·.resetInstance u n) where
  commutes s d st := by cases u <;> rfl
  written s := resetInstance_written s u n

/-- A relation between two states that differ at most in STATUS and the data registers, kept by each operation a
command ends in when both states take it with the same operands. -/
structure Coupling (R : State → State → Prop) : Prop where
  twin : ∀ {s t}, R s t → { s with d := t.d, status := t.status } = t
  setFlags : ∀ {s t}, R s t → ∀ m, R (s.setFlags m) (t.setFlags m)
  reject : ∀ {s t}, R s t → ∀ c, R (s.reject c) (t.reject c)
  writeReg : ∀ {s t}, R s t → ∀ r v, R (s.writeReg r v) (t.writeReg r v)
  bankChange : ∀ {f}, BankChange f → ∀ {s t}, R s t → R (f s) (f t)

/-- Both outcomes are next states, related by `R`. -/
def Coupled (R : State → State → Prop) (a b : Result) : Prop := ∃ s t, a = .next s ∧ b = .next t ∧ R s t

theorem coupled_next {R : State → State → Prop} {s t : State} (h : R s t) : Coupled R (.next s) (.next t) :=
  ⟨s, t, rfl, rfl, h⟩

theorem freg_congr {s t : State} {r : Reg} (h : t.reg r = s.reg r) : t.freg r = s.freg r := congrArg F32.canon h

theorem instanceCheck_none {s : State} {u : UnitName} {n : InstNo} (h : n.toNat < s.count u) :
    instanceCheck s u n = none := if_neg (not_le.2 h)

theorem lt_length_of_getElem? {α : Type} {l : List α} {n : Nat} {x : α} (h : l[n]? = some x) : n < l.length :=
  (List.getElem?_eq_some_iff.1 h).1

section Coupling

variable {R : State → State → Prop} (hR : Coupling R) {s t : State} (h : R s t)
include hR h

/-! ## What the two states share -/

theorem Coupling.sameBanks : banksKept [] s t := by
  rw [← hR.twin h]
  simp [banksKept]

theorem Coupling.sameParams : ParamsKept s t := paramsKept_of_banksKept (hR.sameBanks h)

theorem Coupling.sameConfig : t.config = s.config := (hR.sameParams h).config

theorem Coupling.sameCount (u : UnitName) : t.count u = s.count u := count_of_config (hR.sameConfig h) u

theorem Coupling.sameStateReg (u : UnitName) (n idx : Nat) : t.stateReg? u n idx = s.stateReg? u n idx :=
  (bankStateKept_of_banksKept (hR.sameBanks h) List.not_mem_nil n).reg idx

/-! ## The shared ends of a command -/

theorem Coupling.setFlagIf (c : Bool) (m : Word) : R (s.setFlagIf c m) (t.setFlagIf c m) := by
  cases c
  · exact h
  · exact hR.setFlags h m

theorem Coupling.stickyNV (xs : List Word) : R (s.stickyNV xs) (t.stickyNV xs) := by
  unfold State.stickyNV
  split
  · exact hR.setFlags h _
  · exact h

theorem Coupling.result (nv : List Word) (rd : Reg) (y : Word) : R (s.result nv rd y) (t.result nv rd y) :=
  hR.writeReg (hR.stickyNV h nv) rd y

theorem Coupling.writeSample (rd : Reg) (v : Word) : R (s.writeSample rd v) (t.writeSample rd v) :=
  hR.writeReg (hR.setFlagIf h _ _) rd _

theorem Coupling.paramWrite (u : UnitName) (n idx : Nat) (x : Word) :
    R (s.paramWrite u n idx x) (t.paramWrite u n idx x) := by
  cases hx : F32.isNaN x
  case true => rw [paramWrite_nan hx, paramWrite_nan hx]; exact hR.setFlags h _
  case false =>
    cases hc : (paramTable u)[idx]? with
    | none =>
      unfold State.paramWrite
      rw [if_neg (by simp [hx]), if_neg (by simp [hx]), hc]
      exact h
    | some p =>
      obtain ⟨name, c⟩ := p
      have hrange : t.classRange n c = s.classRange n c := classRange_of_config (hR.sameConfig h) n c
      rw [paramWrite_value hx hc, paramWrite_value hx hc, storedParam, storedParam, hrange]
      exact hR.bankChange (bankChange_setParam ..) (hR.setFlagIf h _ _)

theorem Coupling.coupled_reject (c : Cause) : Coupled R (.next (s.reject c)) (.next (t.reject c)) :=
  coupled_next (hR.reject h c)

theorem Coupling.coupled_result (nv : List Word) (rd : Reg) (y : Word) :
    Coupled R (.next (s.result nv rd y)) (.next (t.result nv rd y)) := coupled_next (hR.result h nv rd y)

theorem Coupling.coupled_writeReg (rd : Reg) (y : Word) :
    Coupled R (.next (s.writeReg rd y)) (.next (t.writeReg rd y)) := coupled_next (hR.writeReg h rd y)

/-- The common end of the step commands: the new bank, then the result. -/
theorem Coupling.coupled_bank_result {f : State → State} (hf : BankChange f) (nv : List Word) (rd : Reg) (y : Word) :
    Coupled R (.next ((f s).result nv rd y)) (.next ((f t).result nv rd y)) :=
  hR.coupled_result (hR.bankChange hf h) nv rd y

/-! ## Control commands -/

theorem execRst_coupled (u : UnitName) (n : InstNo) : Coupled R (execRst u n s) (execRst u n t) := by
  unfold execRst
  rw [hR.sameCount h]
  split
  · exact hR.coupled_reject h _
  · split
    · exact coupled_next (hR.bankChange (f := State.resetAll) ⟨fun _ _ _ => rfl, fun _ => rfl⟩ h)
    · exact coupled_next (hR.bankChange (bankChange_resetInstance u _) h)

theorem execSetp_coupled (ra : Reg) (u : UnitName) (n : InstNo) (idx : Idx)
    (hsrc : rejectCause s (.setp ra u n idx) = none → t.reg ra = s.reg ra) :
    Coupled R (execSetp ra u n idx s) (execSetp ra u n idx t) := by
  unfold execSetp
  rw [hR.sameCount h]
  split
  · exact hR.coupled_reject h _
  · rename_i hu
    split
    · exact hR.coupled_reject h _
    · rename_i hn
      split
      · exact hR.coupled_reject h _
      · rename_i hidx
        have hcheck : rejectCause s (.setp ra u n idx) = none := by
          rw [rejectCause, bankCheck, if_neg hu, if_neg hn, if_neg hidx]
        rw [freg_congr (hsrc hcheck)]
        exact coupled_next (hR.paramWrite h ..)

theorem execGetp_coupled (rd : Reg) (u : UnitName) (n : InstNo) (idx : Idx) :
    Coupled R (execGetp rd u n idx s) (execGetp rd u n idx t) := by
  unfold execGetp
  rw [hR.sameCount h, (hR.sameParams h).param]
  split
  · exact hR.coupled_reject h _
  · split
    · exact hR.coupled_reject h _
    · split
      · exact hR.coupled_reject h _
      · exact hR.coupled_writeReg h _ _

theorem execGets_coupled (rd : Reg) (u : UnitName) (n : InstNo) (idx : Idx) :
    Coupled R (execGets rd u n idx s) (execGets rd u n idx t) := by
  unfold execGets
  rw [hR.sameCount h, hR.sameStateReg h]
  split
  · exact hR.coupled_reject h _
  · split
    · exact hR.coupled_reject h _
    · split
      · exact hR.coupled_reject h _
      · exact hR.coupled_writeReg h _ _

theorem execCoef_coupled (ra : Reg) (u : UnitName) (n : InstNo)
    (hsrc : rejectCause s (.coef ra u n) = none → t.reg ra = s.reg ra) :
    Coupled R (execCoef ra u n s) (execCoef ra u n t) := by
  have hfs : t.fs = s.fs := (congrArg State.fs (hR.twin h)).symm
  unfold execCoef
  rw [hR.sameCount h, hfs]
  split
  · exact hR.coupled_reject h _
  · rename_i hu
    split
    · exact hR.coupled_reject h _
    · rename_i hn
      have hcheck : rejectCause s (.coef ra u n) = none := by
        rw [rejectCause, if_pos (Bool.eq_true_of_not_eq_false hu), instanceCheck_none (not_le.1 hn)]
      rw [freg_congr (hsrc hcheck)]
      dsimp only
      split
      · exact coupled_next (hR.setFlags h _)
      · exact coupled_next (hR.paramWrite (hR.setFlagIf h _ _) ..)

/-! ## Sample conversions -/

theorem execCvtfiSym_coupled (rd ra : Reg) (hsrc : t.reg ra = s.reg ra) :
    Coupled R (execCvtfiSym rd ra s) (execCvtfiSym rd ra t) := by
  unfold execCvtfiSym
  rw [freg_congr hsrc]
  dsimp only
  split
  · exact hR.coupled_result h _ _ _
  · exact coupled_next (hR.writeSample h _ _)

theorem execCvtfiAsym_coupled (rd ra : Reg) (hsrc : t.reg ra = s.reg ra) :
    Coupled R (execCvtfiAsym rd ra s) (execCvtfiAsym rd ra t) := by
  unfold execCvtfiAsym
  rw [freg_congr hsrc]
  dsimp only
  split
  · exact hR.coupled_result h _ _ _
  · exact coupled_next (hR.writeSample h _ _)

/-! ## Step commands -/

theorem execBqStep_coupled (rd ra : Reg) (n : InstNo)
    (hsrc : n.toNat < s.count .bq → t.reg ra = s.reg ra) :
    Coupled R (execBqStep rd ra n s) (execBqStep rd ra n t) := by
  have hbank : t.bq = s.bq := (congrArg State.bq (hR.twin h)).symm
  unfold execBqStep
  rw [hbank]
  split
  · exact hR.coupled_reject h _
  · rename_i u hu
    rw [freg_congr (hsrc (lt_length_of_getElem? hu))]
    exact hR.coupled_bank_result h (f := (·.setBq n _)) ⟨fun _ _ _ => rfl, fun _ => rfl⟩ _ _ _

theorem execLpStep_coupled (rd ra : Reg) (n : InstNo)
    (hsrc : n.toNat < s.count .lp → t.reg ra = s.reg ra) :
    Coupled R (execLpStep rd ra n s) (execLpStep rd ra n t) := by
  have hbank : t.lp = s.lp := (congrArg State.lp (hR.twin h)).symm
  unfold execLpStep
  rw [hbank]
  split
  · exact hR.coupled_reject h _
  · rename_i u hu
    rw [freg_congr (hsrc (lt_length_of_getElem? hu))]
    exact hR.coupled_bank_result h (f := (·.setLp n _)) ⟨fun _ _ _ => rfl, fun _ => rfl⟩ _ _ _

theorem execHpStep_coupled (rd ra : Reg) (n : InstNo)
    (hsrc : n.toNat < s.count .hp → t.reg ra = s.reg ra) :
    Coupled R (execHpStep rd ra n s) (execHpStep rd ra n t) := by
  have hbank : t.hp = s.hp := (congrArg State.hp (hR.twin h)).symm
  unfold execHpStep
  rw [hbank]
  split
  · exact hR.coupled_reject h _
  · rename_i u hu
    rw [freg_congr (hsrc (lt_length_of_getElem? hu))]
    exact hR.coupled_bank_result h (f := (·.setHp n _)) ⟨fun _ _ _ => rfl, fun _ => rfl⟩ _ _ _

theorem execScStep_coupled (rd ra : Reg) (n : InstNo)
    (hsrc : n.toNat < s.count .sc → t.reg ra = s.reg ra) :
    Coupled R (execScStep rd ra n s) (execScStep rd ra n t) := by
  have hbank : t.sc = s.sc := (congrArg State.sc (hR.twin h)).symm
  unfold execScStep
  rw [hbank]
  split
  · exact hR.coupled_reject h _
  · rename_i u hu
    rw [freg_congr (hsrc (lt_length_of_getElem? hu))]
    exact hR.coupled_result h _ _ _

theorem execDcStep_coupled (rd ra : Reg) (n : InstNo)
    (hsrc : n.toNat < s.count .dc → t.reg ra = s.reg ra) :
    Coupled R (execDcStep rd ra n s) (execDcStep rd ra n t) := by
  have hbank : t.dc = s.dc := (congrArg State.dc (hR.twin h)).symm
  unfold execDcStep
  rw [hbank]
  split
  · exact hR.coupled_reject h _
  · rename_i u hu
    rw [freg_congr (hsrc (lt_length_of_getElem? hu))]
    exact hR.coupled_bank_result h (f := (·.setDc n _)) ⟨fun _ _ _ => rfl, fun _ => rfl⟩ _ _ _

theorem execLiStep_coupled (rd ra rb : Reg) (n : InstNo)
    (hsrc : n.toNat < s.count .li → t.reg ra = s.reg ra ∧ t.reg rb = s.reg rb) :
    Coupled R (execLiStep rd ra rb n s) (execLiStep rd ra rb n t) := by
  have hbank : t.li = s.li := (congrArg State.li (hR.twin h)).symm
  unfold execLiStep
  rw [hbank]
  split
  · exact hR.coupled_reject h _
  · rename_i u hu
    obtain ⟨ha, hb⟩ := hsrc (lt_length_of_getElem? hu)
    rw [freg_congr ha, freg_congr hb]
    exact hR.coupled_bank_result h (f := (·.setLi n _)) ⟨fun _ _ _ => rfl, fun _ => rfl⟩ _ _ _

theorem execDsStep_coupled (rd ra : Reg) (n : InstNo)
    (hsrc : n.toNat < s.count .ds → t.reg ra = s.reg ra) :
    Coupled R (execDsStep rd ra n s) (execDsStep rd ra n t) := by
  have hbank : t.ds = s.ds := (congrArg State.ds (hR.twin h)).symm
  unfold execDsStep
  rw [hbank]
  split
  · exact hR.coupled_reject h _
  · rename_i u hu
    rw [freg_congr (hsrc (lt_length_of_getElem? hu))]
    exact hR.coupled_bank_result h (f := (·.setDs n _)) ⟨fun _ _ _ => rfl, fun _ => rfl⟩ _ _ _

/-- R105: an odd pair is rejected before the source is read. -/
theorem execXoStep_coupled (rd ra : Reg) (n : InstNo)
    (hsrc : n.toNat < s.count .xo → rd.toNat % 2 ≠ 1 → t.reg ra = s.reg ra) :
    Coupled R (execXoStep rd ra n s) (execXoStep rd ra n t) := by
  have hbank : t.xo = s.xo := (congrArg State.xo (hR.twin h)).symm
  unfold execXoStep
  rw [hbank]
  split
  · exact hR.coupled_reject h _
  · rename_i u hu
    split
    · exact hR.coupled_reject h _
    · rename_i hodd
      rw [freg_congr (hsrc (lt_length_of_getElem? hu) hodd)]
      refine hR.coupled_writeReg (hR.result (hR.bankChange (f := (·.setXo n _)) ?_ h) ..) _ _
      exact ⟨fun _ _ _ => rfl, fun _ => rfl⟩

theorem execNcoStep_coupled (rd ra : Reg) (n : InstNo)
    (hsrc : n.toNat < s.count .nco → t.reg ra = s.reg ra) :
    Coupled R (execNcoStep rd ra n s) (execNcoStep rd ra n t) := by
  have hbank : t.nco = s.nco := (congrArg State.nco (hR.twin h)).symm
  have hfs : t.fs = s.fs := (congrArg State.fs (hR.twin h)).symm
  unfold execNcoStep
  rw [hbank]
  split
  · exact hR.coupled_reject h _
  · rename_i u hu
    rw [freg_congr (hsrc (lt_length_of_getElem? hu)), hfs]
    exact hR.coupled_bank_result h (f := (·.setNco n _)) ⟨fun _ _ _ => rfl, fun _ => rfl⟩ _ _ _

theorem execZcStep_coupled (rd ra rb : Reg) (n : InstNo)
    (hsrc : n.toNat < s.count .zc → t.reg ra = s.reg ra ∧ t.reg rb = s.reg rb) :
    Coupled R (execZcStep rd ra rb n s) (execZcStep rd ra rb n t) := by
  have hbank : t.zc = s.zc := (congrArg State.zc (hR.twin h)).symm
  have hfs : t.fs = s.fs := (congrArg State.fs (hR.twin h)).symm
  unfold execZcStep
  rw [hbank]
  split
  · exact hR.coupled_reject h _
  · rename_i u hu
    obtain ⟨ha, hb⟩ := hsrc (lt_length_of_getElem? hu)
    rw [freg_congr ha, freg_congr hb, hfs]
    exact hR.coupled_bank_result h (f := (·.setZc n _)) ⟨fun _ _ _ => rfl, fun _ => rfl⟩ _ _ _

theorem execEnvStep_coupled (rd ra : Reg) (n : InstNo)
    (hsrc : n.toNat < s.count .env → t.reg ra = s.reg ra) :
    Coupled R (execEnvStep rd ra n s) (execEnvStep rd ra n t) := by
  have hbank : t.env = s.env := (congrArg State.env (hR.twin h)).symm
  unfold execEnvStep
  rw [hbank]
  split
  · exact hR.coupled_reject h _
  · rename_i u hu
    rw [freg_congr (hsrc (lt_length_of_getElem? hu))]
    exact hR.coupled_bank_result h (f := (·.setEnv n _)) ⟨fun _ _ _ => rfl, fun _ => rfl⟩ _ _ _

theorem execGpStep_coupled (rd ra : Reg) (n : InstNo)
    (hsrc : n.toNat < s.count .gp → t.reg ra = s.reg ra) :
    Coupled R (execGpStep rd ra n s) (execGpStep rd ra n t) := by
  have hbank : t.gp = s.gp := (congrArg State.gp (hR.twin h)).symm
  unfold execGpStep
  rw [hbank]
  split
  · exact hR.coupled_reject h _
  · rename_i u hu
    rw [freg_congr (hsrc (lt_length_of_getElem? hu))]
    exact hR.coupled_bank_result h (f := (·.setGp n _)) ⟨fun _ _ _ => rfl, fun _ => rfl⟩ _ _ _

theorem execDlWr_coupled (ra : Reg) (n : InstNo) (hsrc : n.toNat < s.count .dl → t.reg ra = s.reg ra) :
    Coupled R (execDlWr ra n s) (execDlWr ra n t) := by
  have hbank : t.dl = s.dl := (congrArg State.dl (hR.twin h)).symm
  unfold execDlWr
  rw [hbank]
  split
  · exact hR.coupled_reject h _
  · rename_i u hu
    rw [freg_congr (hsrc (lt_length_of_getElem? hu))]
    exact coupled_next (hR.stickyNV (hR.bankChange (f := (·.setDl n _)) ⟨fun _ _ _ => rfl, fun _ => rfl⟩ h) _)

theorem execDlRd_coupled (rd ra : Reg) (n : InstNo) (hsrc : n.toNat < s.count .dl → t.reg ra = s.reg ra) :
    Coupled R (execDlRd rd ra n s) (execDlRd rd ra n t) := by
  have hbank : t.dl = s.dl := (congrArg State.dl (hR.twin h)).symm
  unfold execDlRd
  rw [hbank]
  split
  · exact hR.coupled_reject h _
  · rename_i u hu
    rw [freg_congr (hsrc (lt_length_of_getElem? hu))]
    exact hR.coupled_result h _ _ _

theorem execMdStep_coupled (rd ra : Reg) (n : InstNo) (hsrc : n.toNat < s.count .md → t.reg ra = s.reg ra) :
    Coupled R (execMdStep rd ra n s) (execMdStep rd ra n t) := by
  have hbank : t.md = s.md := (congrArg State.md (hR.twin h)).symm
  have hline : t.dl = s.dl := (congrArg State.dl (hR.twin h)).symm
  unfold execMdStep
  rw [hbank, hline]
  split
  · exact hR.coupled_reject h _
  · rename_i u hu
    split
    · exact hR.coupled_reject h _
    · rw [freg_congr (hsrc (lt_length_of_getElem? hu))]
      exact hR.coupled_result h _ _ _

/-! ## Every command -/

/-- Two related states that agree in what a command reads, where it is executed, end in related states. -/
theorem exec_coupled (i : Instr) (hsrc : rejectCause s i = none → ∀ r ∈ sources i, t.reg r = s.reg r) :
    Coupled R (exec i s) (exec i t) := by
  cases i with
  | nop => exact coupled_next h
  | rst u n => exact execRst_coupled hR h u n
  | setp ra u n idx => exact execSetp_coupled hR h ra u n idx fun hc => hsrc hc ra (by simp [sources])
  | getp rd u n idx => exact execGetp_coupled hR h rd u n idx
  | gets rd u n idx => exact execGets_coupled hR h rd u n idx
  | coef ra u n => exact execCoef_coupled hR h ra u n fun hc => hsrc hc ra (by simp [sources])
  | ldhi rd imm => exact hR.coupled_writeReg h rd _
  | orlo rd imm =>
    simp only [exec, execOrlo, hsrc rfl rd (by simp [sources])]
    exact hR.coupled_writeReg h rd _
  | mov rd ra =>
    simp only [exec, execMov, hsrc rfl ra (by simp [sources])]
    exact hR.coupled_writeReg h rd _
  | cvtifSym rd ra | cvtifAsym rd ra =>
    simp only [exec, execCvtifSym, execCvtifAsym, State.sample, hsrc rfl ra (by simp [sources])]
    exact hR.coupled_writeReg h rd _
  | fadd rd ra rb | fsub rd ra rb | fmul rd ra rb | satAtan rd ra rb | satTanh rd ra rb =>
    have ha := freg_congr (hsrc rfl ra (by simp [sources]))
    have hb := freg_congr (hsrc rfl rb (by simp [sources]))
    simp only [exec, execFadd, execFsub, execFmul, execSatAtan, execSatTanh, ha, hb]
    exact hR.coupled_result h _ rd _
  | clamp rd ra rb rc | lerp rd ra rb rc =>
    have ha := freg_congr (hsrc rfl ra (by simp [sources]))
    have hb := freg_congr (hsrc rfl rb (by simp [sources]))
    have hc := freg_congr (hsrc rfl rc (by simp [sources]))
    simp only [exec, execClamp, execLerp, ha, hb, hc]
    exact hR.coupled_result h _ rd _
  | sin2pi rd ra | cos2pi rd ra =>
    simp only [exec, execSin2pi, execCos2pi, freg_congr (hsrc rfl ra (by simp [sources]))]
    exact hR.coupled_result h _ rd _
  | cvtfiSym rd ra => exact execCvtfiSym_coupled hR h rd ra (hsrc rfl ra (by simp [sources]))
  | cvtfiAsym rd ra => exact execCvtfiAsym_coupled hR h rd ra (hsrc rfl ra (by simp [sources]))
  | bqStep rd ra n =>
    exact execBqStep_coupled hR h rd ra n fun hn => hsrc (instanceCheck_none hn) ra (by simp [sources])
  | lpStep rd ra n =>
    exact execLpStep_coupled hR h rd ra n fun hn => hsrc (instanceCheck_none hn) ra (by simp [sources])
  | hpStep rd ra n =>
    exact execHpStep_coupled hR h rd ra n fun hn => hsrc (instanceCheck_none hn) ra (by simp [sources])
  | scStep rd ra n =>
    exact execScStep_coupled hR h rd ra n fun hn => hsrc (instanceCheck_none hn) ra (by simp [sources])
  | dlWr ra n => exact execDlWr_coupled hR h ra n fun hn => hsrc (instanceCheck_none hn) ra (by simp [sources])
  | dlRd rd ra n => exact execDlRd_coupled hR h rd ra n fun hn => hsrc (instanceCheck_none hn) ra (by simp [sources])
  | dcStep rd ra n =>
    exact execDcStep_coupled hR h rd ra n fun hn => hsrc (instanceCheck_none hn) ra (by simp [sources])
  | liStep rd ra rb n =>
    exact execLiStep_coupled hR h rd ra rb n fun hn => by simpa [sources] using hsrc (instanceCheck_none hn)
  | dsStep rd ra n =>
    exact execDsStep_coupled hR h rd ra n fun hn => hsrc (instanceCheck_none hn) ra (by simp [sources])
  | xoStep rd ra n =>
    refine execXoStep_coupled hR h rd ra n fun hn heven => hsrc ?_ ra (by simp [sources])
    rw [rejectCause, instanceCheck_none hn, if_neg heven]
    rfl
  | mdStep rd ra n =>
    exact execMdStep_coupled hR h rd ra n fun hn => hsrc (instanceCheck_none hn) ra (by simp [sources])
  | ncoStep rd ra n =>
    exact execNcoStep_coupled hR h rd ra n fun hn => hsrc (instanceCheck_none hn) ra (by simp [sources])
  | zcStep rd ra rb n =>
    exact execZcStep_coupled hR h rd ra rb n fun hn => by simpa [sources] using hsrc (instanceCheck_none hn)
  | envStep rd ra n =>
    exact execEnvStep_coupled hR h rd ra n fun hn => hsrc (instanceCheck_none hn) ra (by simp [sources])
  | gpStep rd ra n =>
    exact execGpStep_coupled hR h rd ra n fun hn => hsrc (instanceCheck_none hn) ra (by simp [sources])

end Coupling

/-! ## States that differ in STATUS alone -/

def SameButStatus (s t : State) : Prop := { s with status := t.status } = t

theorem SameButStatus.d {s t : State} (h : SameButStatus s t) : t.d = s.d := (congrArg State.d h).symm

theorem coupling_sameButStatus : Coupling SameButStatus where
  twin {s t} h := by rw [h.d]; exact h
  setFlags {s t} h m := by
    obtain ⟨v, rfl⟩ : ∃ v, t = { s with status := v } := ⟨_, h.symm⟩
    rfl
  reject {s t} h c := by
    obtain ⟨v, rfl⟩ : ∃ v, t = { s with status := v } := ⟨_, h.symm⟩
    rfl
  writeReg {s t} h r v := by
    obtain ⟨v, rfl⟩ : ∃ v, t = { s with status := v } := ⟨_, h.symm⟩
    rfl
  bankChange {f} hf {s t} h := by
    obtain ⟨v, rfl⟩ : ∃ v, t = { s with status := v } := ⟨_, h.symm⟩
    have hft : f { s with status := v } = { f s with d := s.d, status := v } := hf.commutes s s.d v
    rw [SameButStatus, hft, ← hf.d s]

/-- Settles O15: the relation is kept by the shared ends of the commands, so by every command. -/
theorem statusNeverSteersACommand : Obligations.StatusNeverSteersACommand := by
  intro i s t v h
  have hsame : SameButStatus s { s with status := v } := rfl
  obtain ⟨t₁, t', ht₁, ht', hrel⟩ := exec_coupled coupling_sameButStatus hsame i fun _ _ _ => rfl
  rw [h] at ht₁
  cases ht₁
  exact ⟨t', ht', hrel⟩

/-! ## States that differ in unwritten registers alone (10_state.md R32, log 2) -/

theorem AgreeOnWritten.exists_eq {s t : State} (h : AgreeOnWritten s t) :
    ∃ d, t = { s with d := d } ∧ ∀ r, s.isWritten r = true → s.reg r = ({ s with d := d } : State).reg r :=
  ⟨t.d, h.1.symm, fun r hr => (h.2 r hr).trans (by rw [h.1])⟩

/-- A register write makes the two states agree in that register too. -/
theorem agreeOnWritten_writeReg {s t : State} (h : AgreeOnWritten s t) (r : Reg) (v : Word) :
    AgreeOnWritten (s.writeReg r v) (t.writeReg r v) := by
  obtain ⟨d, rfl, hreg⟩ := h.exists_eq
  refine ⟨rfl, fun r' hr' => ?_⟩
  rw [isWritten_writeReg] at hr'
  rw [reg_writeReg, reg_writeReg]
  split
  · rfl
  · rename_i hne
    rw [decide_eq_false hne, Bool.false_or] at hr'
    exact hreg r' hr'

theorem coupling_agreeOnWritten : Coupling AgreeOnWritten where
  twin {s t} h := by
    obtain ⟨d, rfl, -⟩ := AgreeOnWritten.exists_eq h
    rfl
  setFlags {s t} h m := by
    obtain ⟨d, rfl, hreg⟩ := AgreeOnWritten.exists_eq h
    exact ⟨rfl, hreg⟩
  reject {s t} h c := by
    obtain ⟨d, rfl, hreg⟩ := AgreeOnWritten.exists_eq h
    exact ⟨rfl, hreg⟩
  writeReg := agreeOnWritten_writeReg
  bankChange {f} hf {s t} h := by
    obtain ⟨d, rfl, hreg⟩ := AgreeOnWritten.exists_eq h
    have hft : f { s with d := d } = { f s with d := d, status := s.status } := hf.commutes s d s.status
    refine ⟨by rw [hft, ← hf.status s], fun r hr => ?_⟩
    rw [isWritten_congr (hf.written s)] at hr
    rw [reg_congr (hf.d s), reg_congr (hf.d { s with d := d })]
    exact hreg r hr

/-! ## One step of two such states -/

theorem outcomesAgree_of_coupled {a b : Result} (h : Coupled AgreeOnWritten a b) : outcomesAgree a b := by
  obtain ⟨s, t, rfl, rfl, hrel⟩ := h
  exact hrel

theorem agreeOnWritten_setBus {s t : State} (h : AgreeOnWritten s t) (bus : List BusEvent) :
    AgreeOnWritten { s with bus := bus } { t with bus := bus } := by
  obtain ⟨d, rfl, hreg⟩ := h.exists_eq
  exact ⟨rfl, hreg⟩

theorem agreeOnWritten_setReadData {s t : State} (h : AgreeOnWritten s t) (w : Word) :
    AgreeOnWritten { s with readData := w } { t with readData := w } := by
  obtain ⟨d, rfl, hreg⟩ := h.exists_eq
  exact ⟨rfl, hreg⟩

theorem agreeOnWritten_writeStatus {s t : State} (h : AgreeOnWritten s t) (v : Word) :
    AgreeOnWritten (s.writeStatus v) (t.writeStatus v) := by
  obtain ⟨d, rfl, hreg⟩ := h.exists_eq
  exact ⟨rfl, hreg⟩

theorem outcomesAgree_checkAccess {addr width : Nat} {a b : Result}
    (h : performed addr width = true → outcomesAgree a b) :
    outcomesAgree (checkAccess addr width a) (checkAccess addr width b) := by
  unfold checkAccess
  split
  · exact rfl
  · split
    · rename_i hp
      exact h hp
    · exact rfl

/-! ### What `readsUnwritten` rules out -/

theorem isWritten_of_read {s : State} {rest : List BusEvent} {addr width : Nat}
    (hbus : s.bus = .read addr width :: rest) (hsafe : readsUnwritten s = false) (hp : performed addr width = true)
    (haddr : addr < 0x040) : s.isWritten (dataRegAt addr) = true := by
  simpa [readsUnwritten, hbus, hp, haddr] using hsafe

theorem isWritten_of_command {s : State} {rest : List BusEvent} {width : Nat} {w : Word} {i : Instr}
    (hbus : s.bus = .write 0x040 width w :: rest) (hsafe : readsUnwritten s = false)
    (hp : performed 0x040 width = true) (hi : decode w = .ok i) (hc : rejectCause s i = none) :
    ∀ r ∈ sources i, s.isWritten r = true := by
  simpa [readsUnwritten, hbus, hp, hi, hc] using hsafe

/-- The checks of R105 do not look at the pending events. -/
theorem rejectCause_setBus (s : State) (bus : List BusEvent) (i : Instr) :
    rejectCause { s with bus := bus } i = rejectCause s i := by
  cases i <;> rfl

/-! ### The bus events -/

theorem busRead_agree {s t : State} (h : AgreeOnWritten s t) {addr : Nat}
    (hw : addr < 0x040 → s.isWritten (dataRegAt addr) = true) : busRead t addr = busRead s addr := by
  obtain ⟨d, rfl, hreg⟩ := h.exists_eq
  unfold busRead
  split
  · rename_i haddr
    exact (hreg _ (hw haddr)).symm
  · rfl

theorem runCommand_agree {s t : State} (h : AgreeOnWritten s t) {w : Word}
    (hw : ∀ i, decode w = .ok i → rejectCause s i = none → ∀ r ∈ sources i, s.isWritten r = true) :
    outcomesAgree (runCommand w s) (runCommand w t) := by
  unfold runCommand
  split
  · rename_i i hi
    exact outcomesAgree_of_coupled (exec_coupled coupling_agreeOnWritten h i fun hc r hr =>
      (h.2 r (hw i hi hc r hr)).symm)
  · exact coupling_agreeOnWritten.reject h _

theorem busWrite_agree {s t : State} (h : AgreeOnWritten s t) {addr : Nat} {w : Word}
    (hw : addr = 0x040 → ∀ i, decode w = .ok i → rejectCause s i = none → ∀ r ∈ sources i, s.isWritten r = true) :
    outcomesAgree (busWrite addr w s) (busWrite addr w t) := by
  unfold busWrite
  split
  · exact agreeOnWritten_writeReg h _ w
  · split
    · rename_i haddr
      exact runCommand_agree h (hw haddr)
    · split
      · exact agreeOnWritten_writeStatus h w
      · exact h

theorem busEvent_agree {s t : State} (h : AgreeOnWritten s t) {e : BusEvent} {rest : List BusEvent}
    (hbus : s.bus = e :: rest) (hsafe : readsUnwritten s = false) :
    outcomesAgree (busEvent e { s with bus := rest }) (busEvent e { t with bus := rest }) := by
  have hrest := agreeOnWritten_setBus h rest
  cases e with
  | read addr width =>
    refine outcomesAgree_checkAccess fun hp => ?_
    have hwritten : addr < 0x040 → s.isWritten (dataRegAt addr) = true := isWritten_of_read hbus hsafe hp
    rw [busRead_agree hrest hwritten]
    exact agreeOnWritten_setReadData hrest _
  | write addr width w =>
    refine outcomesAgree_checkAccess fun hp => busWrite_agree hrest ?_
    rintro rfl i hi hc r hr
    rw [rejectCause_setBus] at hc
    exact isWritten_of_command (s := s) hbus hsafe hp hi hc r hr
  | powerCycle =>
    have hconf : ({ t with bus := rest } : State).config = ({ s with bus := rest } : State).config :=
      coupling_agreeOnWritten.sameConfig hrest
    simp only [busEvent, hconf]
    exact ⟨rfl, fun _ _ => rfl⟩

/-- Settles O18: a step is one bus event, and the commands keep the relation. -/
theorem unwrittenRegistersAreNotObserved : Obligations.UnwrittenRegistersAreNotObserved := by
  intro s t h hsafe
  have hbus : t.bus = s.bus := (congrArg State.bus h.1).symm
  unfold step busStep
  rw [hbus]
  split
  · exact h
  · rename_i e rest hs
    exact busEvent_agree h hs hsafe

end Sys2Proof.Machine

/-! SUPPORT. Buffers and refused accesses (20_memory.md R80 to R86): the slots of a delay line, the exact fraction of a
delay, and the accesses the bus does not perform. -/

namespace Sys2Proof.Machine

/-! ## Accesses that are not performed (R80, R86) -/

theorem checkAccess_unperformed {addr width : Nat} (hlt : addr < 0x1000) (h : addr % 4 ≠ 0 ∨ width ≠ 4) (r : Result) :
    checkAccess addr width r = .refused (.unperformedAccess addr width) := by
  have hp : performed addr width = false := by
    rcases h with h | h <;> simp [performed, h]
  rw [checkAccess, if_neg (not_le.2 hlt), hp, if_neg Bool.false_ne_true]

theorem checkAccess_outside {addr : Nat} (h : 0x1000 ≤ addr) (width : Nat) (r : Result) :
    checkAccess addr width r = .fault (.outsideWindow addr) := by
  rw [checkAccess, if_pos h]

/-- A host access, whichever way it goes, is its result behind the checks of R80 and R86. -/
theorem step_access {s : State} {rest : List BusEvent} {addr width : Nat} {v : Word}
    (h : s.bus = .read addr width :: rest ∨ s.bus = .write addr width v :: rest) :
    ∃ r, step s = checkAccess addr width r := by
  rcases h with h | h <;> rw [step, busStep, h] <;> exact ⟨_, rfl⟩

/-- Settles O9: the checks stand before the access, so its result does not matter. -/
theorem badAccessesAreNotPerformed : Obligations.BadAccessesAreNotPerformed := by
  intro s rest addr width v hbus
  obtain ⟨r, hr⟩ := step_access hbus
  rw [hr]
  exact ⟨fun hlt hbad => checkAccess_unperformed hlt hbad r, fun hout => checkAccess_outside hout width r⟩

/-! ## The slots of a delay line (R82, R83) -/

/-- No write ago is the slot about to be written. -/
theorem bufSlot_zero {b : Ring} (hw : b.w < b.cap) : bufSlot b 0 = b.w := by
  rw [bufSlot, Nat.sub_zero, Nat.add_mod_right, Nat.mod_eq_of_lt hw]

/-- R83: `(w - k) mod cap`. -/
theorem bufSlot_eq_emod {b : Ring} {k : Nat} (hk : k ≤ b.cap) :
    bufSlot b k = (((b.w : Int) - k) % b.cap).toNat := by
  have hsum : ((b.w + b.cap - k : Nat) : Int) = (b.w : Int) - k + b.cap := by omega
  rw [bufSlot, ← Int.toNat_natCast ((b.w + b.cap - k) % b.cap), Int.natCast_mod, hsum, Int.add_emod_right]

/-- One write moves every sample of the line one write further into the past. -/
theorem bufSlot_bufWrite_succ {b : Ring} (hw : b.w < b.cap) (v : Word) {k : Nat} (hk : k < b.cap) :
    bufSlot (bufWrite b v) (k + 1) = bufSlot b k := by
  rw [bufSlot, bufSlot, bufWrite_w, bufWrite_cap]
  rcases (Nat.succ_le_of_lt hw).lt_or_eq with h | h
  · rw [Nat.mod_eq_of_lt h, show b.w + 1 + b.cap - (k + 1) = b.w + b.cap - k by omega]
  · have hwrap : (b.w + 1) % b.cap = 0 := by rw [← h]; exact Nat.mod_self _
    rw [hwrap, show 0 + b.cap - (k + 1) = b.w - k by omega, show b.w + b.cap - k = b.w - k + b.cap by omega,
      Nat.add_mod_right]

/-- The slot about to be written holds none of the samples written less than a capacity ago. -/
theorem bufSlot_ne_w {b : Ring} (hw : b.w < b.cap) {k : Nat} (h1 : 1 ≤ k) (hk : k < b.cap) : bufSlot b k ≠ b.w := by
  rcases le_or_gt k b.w with h | h
  · rw [bufSlot, show b.w + b.cap - k = b.w - k + b.cap by omega, Nat.add_mod_right, Nat.mod_eq_of_lt (by omega)]
    omega
  · rw [bufSlot, Nat.mod_eq_of_lt (by omega)]
    omega

theorem bufRead_bufWrite_one {b : Ring} (h : RingOk b) (v : Word) : bufRead (bufWrite b v) 1 = v := by
  obtain ⟨hw, hwf, -⟩ := h
  rw [bufRead, bufSlot_bufWrite_succ hw v (Nat.zero_lt_of_lt hw), bufSlot_zero hw, bufWrite_read hwf, if_pos rfl]

theorem bufRead_bufWrite_succ {b : Ring} (h : RingOk b) (v : Word) {k : Nat} (h1 : 1 ≤ k) (hk : k < b.cap) :
    bufRead (bufWrite b v) (k + 1) = bufRead b k := by
  obtain ⟨hw, hwf, -⟩ := h
  rw [bufRead, bufSlot_bufWrite_succ hw v hk, bufWrite_read hwf, if_neg (bufSlot_ne_w hw h1 hk), bufRead]

/-- Settles O45: what a write does to the slots, then what it does to the reads. -/
theorem bufferIsADelayLine : Obligations.BufferIsADelayLine := by
  intro b v h
  have ⟨_, hwf, _⟩ := h
  exact ⟨rfl, rfl, write_read_same hwf _ _, fun a ha => write_read_other hwf ha v,
    fun k _ hk => congrArg b.buf.read (bufSlot_eq_emod hk),
    bufRead_bufWrite_one h v, fun k h1 hk => bufRead_bufWrite_succ h v h1 hk⟩

end Sys2Proof.Machine

/-! ## The exact fraction of a delay (R84) -/

namespace Sys2Proof.Machine.F32

/-- The part of a magnitude below the point keeps the significand's low bits, so it is a magnitude. -/
theorem exists_magUnits_mod (b : Nat) : ∃ m < infBits, magUnits m = magUnits b % 2 ^ 149 := by
  rcases lt_or_ge b (2 ^ 23) with hb | hb
  · refine ⟨b, hb.trans (by decide), ?_⟩
    rw [magUnits_small (by omega), Nat.mod_eq_of_lt (hb.trans (by norm_num))]
  · obtain ⟨k, c, rfl, h1, h2⟩ := magBits_normal_form hb
    rw [magUnits_normal h1 h2]
    rcases le_or_gt k 149 with hk | hk
    · have hsplit : (2 : Nat) ^ 149 = 2 ^ (149 - k) * 2 ^ k := by rw [← pow_add, Nat.sub_add_cancel hk]
      rw [hsplit, Nat.mul_mod_mul_right]
      exact exists_magUnits_eq ((Nat.mod_le c _).trans h2.le) (by omega)
    · refine ⟨0, by decide, ?_⟩
      rw [magUnits_zero, Nat.mod_eq_zero_of_dvd ((pow_dvd_pow 2 hk.le).mul_left c)]

/-- The fraction of a word that is not negative is the value of a word. -/
theorem exists_value_eq_fraction {x : Word} (h0 : 0 ≤ value x) :
    ∃ v, isFinite v = true ∧ value v = value x - ⌊value x⌋ := by
  obtain ⟨m, hm, hmod⟩ := exists_magUnits_mod (magBits x)
  have hm31 : m < 2 ^ 31 := hm.trans (by decide)
  refine ⟨pack false m, by rwa [isFinite_iff, magBits_pack _ hm31], ?_⟩
  have hx : value x = (units x : ℚ) / 2 ^ 149 := by rw [← abs_value, abs_of_nonneg h0]
  have hdivmod : ((2 ^ 149 * (units x / 2 ^ 149) + units x % 2 ^ 149 : Nat) : ℚ) = units x :=
    congrArg Nat.cast (Nat.div_add_mod (units x) (2 ^ 149))
  rw [value_of_sign_false (sign_pack _ hm31), units, magBits_pack _ hm31, hmod, ← units, hx, floor_units,
    eq_sub_iff_add_eq, ← hdivmod, Int.cast_natCast]
  push_cast
  field_simp
  ring

end Sys2Proof.Machine.F32

namespace Sys2Proof.Machine

open F32

/-- R14: a result that is a word is not rounded. -/
theorem NearestEven.value_eq {q : ℚ} {w v : Word} (h : NearestEven q w) (hv : isFinite v = true)
    (hq : value v = q) : value w = q :=
  hq ▸ le_antisymm (h.value_le hv hq.ge) (h.le_value hv hq.le)

/-- R84: what is left of a delay below its whole part is exact. -/
theorem sub_ofInt_floor {x : Word} (hx : isFinite x = true) (h0 : 0 ≤ value x) (hmax : ⌊value x⌋ ≤ 2 ^ 24) :
    isFinite (sub x (ofInt ⌊value x⌋)) = true ∧ value (sub x (ofInt ⌊value x⌋)) = value x - ⌊value x⌋ := by
  have habs : (⌊value x⌋).natAbs ≤ 2 ^ 24 := by have := Int.floor_nonneg.2 h0; omega
  have hnear := nearestEven_sub hx (isFinite_ofInt habs)
  rw [value_ofInt habs] at hnear
  obtain ⟨v, hv, hfrac⟩ := exists_value_eq_fraction h0
  have hval := hnear.value_eq hv hfrac
  refine ⟨isFinite_of_nearestEven hnear ?_, hval⟩
  rw [← hfrac]
  exact isFinite_iff_abs_value.1 hv

/-- R84: the delay FracRead reads at lies between 1 and N - 1. -/
theorem fracDelay_inRange {b : Ring} (hcap : 2 ≤ b.cap) (hmax : b.cap ≤ 2 ^ 24) (dly : Word) :
    inRange one (ofInt ((b.cap : Int) - 1)) (fracDelay b dly) := by
  have habs : ((b.cap : Int) - 1).natAbs ≤ 2 ^ 24 := by omega
  have hends : le one (ofInt ((b.cap : Int) - 1)) = true := by
    rw [le_iff_value isNaN_one (isNaN_of_isFinite (isFinite_ofInt habs)), value_one, value_ofInt habs]
    exact_mod_cast (by omega : (1 : Int) ≤ (b.cap : Int) - 1)
  unfold fracDelay
  cases hn : isNaN dly
  · rw [if_neg Bool.false_ne_true]
    exact clamp_inRange hn hends
  · rw [if_pos rfl]
    exact ⟨by decide, hends⟩

/-- R84: the whole part of that delay lies there too. -/
theorem floor_fracDelay_bounds {b : Ring} (hcap : 2 ≤ b.cap) (hmax : b.cap ≤ 2 ^ 24) (dly : Word) :
    isFinite (fracDelay b dly) = true ∧
      1 ≤ ⌊value (fracDelay b dly)⌋ ∧ ⌊value (fracDelay b dly)⌋ ≤ (b.cap : Int) - 1 := by
  have habs : ((b.cap : Int) - 1).natAbs ≤ 2 ^ 24 := by omega
  have hfin := isFinite_ofInt habs
  have hrange := fracDelay_inRange hcap hmax dly
  obtain ⟨-, hlo, hhi⟩ := (inRange_iff_value isNaN_one (isNaN_of_isFinite hfin)).1 hrange
  rw [value_one] at hlo
  rw [value_ofInt habs] at hhi
  refine ⟨isFinite_of_inRange (by decide) hfin hrange, Int.le_floor.2 (by exact_mod_cast hlo), ?_⟩
  exact_mod_cast (Int.floor_le _).trans hhi

/-- R84: `int(floor32(x))` is the whole part. -/
theorem toInt_floor {x : Word} (h : isFinite x = true) : toInt (floor x) = ⌊value x⌋ := by
  obtain ⟨-, -, hval⟩ := floor_of_isFinite h
  rw [toInt_eq, hval, Int.ceil_intCast, Int.floor_intCast, ite_self]

/-- R84: FracRead, the whole part of its delay at hand. -/
theorem fracRead_eq {b : Ring} {dly : Word} {k : Nat} (hfin : isFinite (fracDelay b dly) = true)
    (hk : ⌊value (fracDelay b dly)⌋ = (k : Int)) :
    fracRead b dly = lerp (bufRead b k) (bufRead b (k + 1)) (sub (fracDelay b dly) (ofInt k)) := by
  rw [fracRead, toInt_floor hfin, hk, Int.toNat_natCast]

/-- Settles O47: the delay is at least 1, so its fraction needs no rounding. -/
theorem fracReadBlendsTwoSamples : Obligations.FracReadBlendsTwoSamples := by
  intro b dly _ hcap hmax
  obtain ⟨hfin, hlo, hhi⟩ := floor_fracDelay_bounds hcap hmax dly
  obtain ⟨k, hk⟩ := Int.eq_ofNat_of_zero_le (zero_le_one.trans hlo)
  have h0 : 0 ≤ value (fracDelay b dly) := Int.floor_nonneg.1 (zero_le_one.trans hlo)
  obtain ⟨hfr, hval⟩ := sub_ofInt_floor hfin h0 (by omega)
  rw [hk] at hfr hval
  exact ⟨k, sub (fracDelay b dly) (ofInt k), by omega, by omega, hfin, hfr, hk, hval, fracRead_eq hfin hk⟩

end Sys2Proof.Machine

/-! SUPPORT. The fields of a command word (30_encoding.md R101): what the encoder puts into each, and that they are
all of the word. -/

namespace Sys2Proof

open Laws.RowMatch (fields_getLsbD fieldsImm_getLsbD)

/-! ## The fields of a word (R101) -/

/-- The last field of formats N, P, R and X. -/
def modeField (w : Word) : BitVec 4 := w.extractLsb' 0 4

/-- A field of a word is known by its bits. -/
theorem extractLsb'_eq_of_bits {w : Word} {start len : Nat} {x : BitVec len}
    (h : ∀ n < len, w.getLsbD (start + n) = x.getLsbD n) : w.extractLsb' start len = x := by
  refine BitVec.eq_of_getLsbD_eq fun n hn => ?_
  rw [BitVec.getLsbD_extractLsb', decide_eq_true hn, Bool.true_and, h n hn]

section Fields

variable (op : BitVec 6) (rd ra rb rc : BitVec 4) (idx : BitVec 6) (mode : BitVec 4) (imm : Imm16)

@[simp] theorem rdField_fields : rdField (fields op rd ra rb rc idx mode) = rd := by
  refine extractLsb'_eq_of_bits fun n hn => ?_
  simp (disch := omega) only [fields_getLsbD, if_pos, if_neg, Nat.add_sub_cancel_left]

@[simp] theorem raField_fields : raField (fields op rd ra rb rc idx mode) = ra := by
  refine extractLsb'_eq_of_bits fun n hn => ?_
  simp (disch := omega) only [fields_getLsbD, if_pos, if_neg, Nat.add_sub_cancel_left]

@[simp] theorem rbField_fields : rbField (fields op rd ra rb rc idx mode) = rb := by
  refine extractLsb'_eq_of_bits fun n hn => ?_
  simp (disch := omega) only [fields_getLsbD, if_pos, if_neg, Nat.add_sub_cancel_left]

@[simp] theorem rcField_fields : rcField (fields op rd ra rb rc idx mode) = rc := by
  refine extractLsb'_eq_of_bits fun n hn => ?_
  simp (disch := omega) only [fields_getLsbD, if_pos, if_neg, Nat.add_sub_cancel_left]

@[simp] theorem idxField_fields : idxField (fields op rd ra rb rc idx mode) = idx := by
  refine extractLsb'_eq_of_bits fun n hn => ?_
  simp (disch := omega) only [fields_getLsbD, if_pos, if_neg, Nat.add_sub_cancel_left]

@[simp] theorem rdField_fieldsImm : rdField (fieldsImm op rd imm) = rd := by
  refine extractLsb'_eq_of_bits fun n hn => ?_
  simp (disch := omega) only [fieldsImm_getLsbD, if_pos, if_neg, Nat.add_sub_cancel_left]

@[simp] theorem immField_fieldsImm : immField (fieldsImm op rd imm) = imm := by
  refine extractLsb'_eq_of_bits fun n hn => ?_
  rw [fieldsImm_getLsbD, Nat.zero_add, if_pos hn]

/-- R103, R104: `inst` stands where `rc` does. -/
@[simp] theorem instField_fields : instField (fields op rd ra rb rc idx mode) = rc :=
  rcField_fields op rd ra rb rc idx mode

@[simp] theorem unitOfNumber_unitNumber (u : UnitName) : unitOfNumber (unitNumber u) = u := by cases u <;> rfl

@[simp] theorem unitNumber_unitOfNumber (n : BitVec 4) : unitNumber (unitOfNumber n) = n := by
  revert n
  decide

/-- R103: `unit` stands where `rb` does. -/
@[simp] theorem unitField_fields : unitField (fields op rd ra rb rc idx mode) = unitOfNumber rb :=
  congrArg unitOfNumber (rbField_fields op rd ra rb rc idx mode)

@[simp] theorem unitNumber_unitField (w : Word) : unitNumber (unitField w) = rbField w := unitNumber_unitOfNumber _

end Fields

/-- R101: the fields of formats N, P, R and X are all of a word. -/
theorem fields_of_word (w : Word) :
    fields (opField w) (rdField w) (raField w) (rbField w) (rcField w) (idxField w) (modeField w) = w := by
  refine BitVec.eq_of_getLsbD_eq fun n hn => ?_
  simp only [fields_getLsbD, opField, rdField, raField, rbField, rcField, idxField, modeField,
    BitVec.getLsbD_extractLsb']
  interval_cases n <;> rfl

/-- R101: the fields of format I are all of a word whose bits 21:16 are 0. -/
theorem fieldsImm_of_word {w : Word} (hzero : w.extractLsb' 16 6 = 0) :
    fieldsImm (opField w) (rdField w) (immField w) = w := by
  rw [fieldsImm, ← hzero]
  refine BitVec.eq_of_getLsbD_eq fun n hn => ?_
  simp only [opField, rdField, immField, BitVec.getLsbD_append, BitVec.getLsbD_extractLsb']
  interval_cases n <;> rfl

end Sys2Proof

/-! SUPPORT. The rows a word matches, and the command a word of a row stands for (30_encoding.md R105, R106). -/

namespace Sys2Proof

/-! ## The word of a row -/

/-- The word is a word of the row (R106). -/
abbrev Row.Matches (r : Row) (w : Word) : Prop := w &&& r.mask = r.pattern

/-- The encoder and the table agree on the fixed bits of every command (R106). -/
theorem row_matches_encode : ∀ i : Instr, i.row.Matches (encode i)
  | .nop => Laws.RowMatch.nop
  | .rst u n => Laws.RowMatch.rst u n
  | .setp ra u n x => Laws.RowMatch.setp ra u n x
  | .getp rd u n x => Laws.RowMatch.getp rd u n x
  | .gets rd u n x => Laws.RowMatch.gets rd u n x
  | .coef ra u n => Laws.RowMatch.coef ra u n
  | .ldhi rd imm => Laws.RowMatch.ldhi rd imm
  | .orlo rd imm => Laws.RowMatch.orlo rd imm
  | .mov rd ra => Laws.RowMatch.mov rd ra
  | .fadd rd ra rb => Laws.RowMatch.fadd rd ra rb
  | .fsub rd ra rb => Laws.RowMatch.fsub rd ra rb
  | .fmul rd ra rb => Laws.RowMatch.fmul rd ra rb
  | .clamp rd ra rb rc => Laws.RowMatch.clamp rd ra rb rc
  | .lerp rd ra rb rc => Laws.RowMatch.lerp rd ra rb rc
  | .satAtan rd ra rb => Laws.RowMatch.satAtan rd ra rb
  | .satTanh rd ra rb => Laws.RowMatch.satTanh rd ra rb
  | .sin2pi rd ra => Laws.RowMatch.sin2pi rd ra
  | .cos2pi rd ra => Laws.RowMatch.cos2pi rd ra
  | .cvtifSym rd ra => Laws.RowMatch.cvtifSym rd ra
  | .cvtifAsym rd ra => Laws.RowMatch.cvtifAsym rd ra
  | .cvtfiSym rd ra => Laws.RowMatch.cvtfiSym rd ra
  | .cvtfiAsym rd ra => Laws.RowMatch.cvtfiAsym rd ra
  | .bqStep rd ra n => Laws.RowMatch.bqStep rd ra n
  | .lpStep rd ra n => Laws.RowMatch.lpStep rd ra n
  | .hpStep rd ra n => Laws.RowMatch.hpStep rd ra n
  | .scStep rd ra n => Laws.RowMatch.scStep rd ra n
  | .dlWr ra n => Laws.RowMatch.dlWr ra n
  | .dlRd rd ra n => Laws.RowMatch.dlRd rd ra n
  | .dcStep rd ra n => Laws.RowMatch.dcStep rd ra n
  | .liStep rd ra rb n => Laws.RowMatch.liStep rd ra rb n
  | .dsStep rd ra n => Laws.RowMatch.dsStep rd ra n
  | .xoStep rd ra n => Laws.RowMatch.xoStep rd ra n
  | .mdStep rd ra n => Laws.RowMatch.mdStep rd ra n
  | .ncoStep rd ra n => Laws.RowMatch.ncoStep rd ra n
  | .zcStep rd ra rb n => Laws.RowMatch.zcStep rd ra rb n
  | .envStep rd ra n => Laws.RowMatch.envStep rd ra n
  | .gpStep rd ra n => Laws.RowMatch.gpStep rd ra n

/-- A field that the mask of a row covers has the value the pattern gives it. -/
theorem Row.Matches.field {r : Row} {w : Word} (h : r.Matches w) {start len : Nat} {v : BitVec len}
    (hmask : r.mask.extractLsb' start len = BitVec.allOnes len) (hpattern : r.pattern.extractLsb' start len = v) :
    w.extractLsb' start len = v := by
  rw [← hpattern, ← h, BitVec.extractLsb'_and, hmask, BitVec.and_allOnes]

theorem row_mem_opcodeTable (i : Instr) : i.row ∈ opcodeTable := by cases i <;> simp [Instr.row, opcodeTable]

/-- R106: every mask covers the opcode. -/
theorem Row.Matches.opField {r : Row} {w : Word} (h : r.Matches w) (hr : r ∈ opcodeTable) :
    opField w = opField r.pattern := by
  have hmask : ∀ r ∈ opcodeTable, r.mask.extractLsb' 26 6 = BitVec.allOnes 6 := by decide
  exact h.field (hmask r hr) rfl

/-- R108: no row has a reserved opcode. -/
theorem Row.Matches.opReserved {r : Row} {w : Word} (h : r.Matches w) (hr : r ∈ opcodeTable) :
    opReserved (Sys2Proof.opField w) = false := by
  have hpattern : ∀ r ∈ opcodeTable, Sys2Proof.opReserved (Sys2Proof.opField r.pattern) = false := by decide
  rw [h.opField hr, hpattern r hr]

/-! ## The command a word of a row stands for -/

/-- The command of `i`'s row whose operands are the fields of `w` (R103, R104). -/
def Instr.readFrom : Instr → Word → Instr
  | .nop, _ => .nop
  | .rst _ _, w => .rst (unitField w) (instField w)
  | .setp _ _ _ _, w => .setp (raField w) (unitField w) (instField w) (idxField w)
  | .getp _ _ _ _, w => .getp (rdField w) (unitField w) (instField w) (idxField w)
  | .gets _ _ _ _, w => .gets (rdField w) (unitField w) (instField w) (idxField w)
  | .coef _ _ _, w => .coef (raField w) (unitField w) (instField w)
  | .ldhi _ _, w => .ldhi (rdField w) (immField w)
  | .orlo _ _, w => .orlo (rdField w) (immField w)
  | .mov _ _, w => .mov (rdField w) (raField w)
  | .fadd _ _ _, w => .fadd (rdField w) (raField w) (rbField w)
  | .fsub _ _ _, w => .fsub (rdField w) (raField w) (rbField w)
  | .fmul _ _ _, w => .fmul (rdField w) (raField w) (rbField w)
  | .clamp _ _ _ _, w => .clamp (rdField w) (raField w) (rbField w) (rcField w)
  | .lerp _ _ _ _, w => .lerp (rdField w) (raField w) (rbField w) (rcField w)
  | .satAtan _ _ _, w => .satAtan (rdField w) (raField w) (rbField w)
  | .satTanh _ _ _, w => .satTanh (rdField w) (raField w) (rbField w)
  | .sin2pi _ _, w => .sin2pi (rdField w) (raField w)
  | .cos2pi _ _, w => .cos2pi (rdField w) (raField w)
  | .cvtifSym _ _, w => .cvtifSym (rdField w) (raField w)
  | .cvtifAsym _ _, w => .cvtifAsym (rdField w) (raField w)
  | .cvtfiSym _ _, w => .cvtfiSym (rdField w) (raField w)
  | .cvtfiAsym _ _, w => .cvtfiAsym (rdField w) (raField w)
  | .bqStep _ _ _, w => .bqStep (rdField w) (raField w) (instField w)
  | .lpStep _ _ _, w => .lpStep (rdField w) (raField w) (instField w)
  | .hpStep _ _ _, w => .hpStep (rdField w) (raField w) (instField w)
  | .scStep _ _ _, w => .scStep (rdField w) (raField w) (instField w)
  | .dlWr _ _, w => .dlWr (raField w) (instField w)
  | .dlRd _ _ _, w => .dlRd (rdField w) (raField w) (instField w)
  | .dcStep _ _ _, w => .dcStep (rdField w) (raField w) (instField w)
  | .liStep _ _ _ _, w => .liStep (rdField w) (raField w) (rbField w) (instField w)
  | .dsStep _ _ _, w => .dsStep (rdField w) (raField w) (instField w)
  | .xoStep _ _ _, w => .xoStep (rdField w) (raField w) (instField w)
  | .mdStep _ _ _, w => .mdStep (rdField w) (raField w) (instField w)
  | .ncoStep _ _ _, w => .ncoStep (rdField w) (raField w) (instField w)
  | .zcStep _ _ _ _, w => .zcStep (rdField w) (raField w) (rbField w) (instField w)
  | .envStep _ _ _, w => .envStep (rdField w) (raField w) (instField w)
  | .gpStep _ _ _, w => .gpStep (rdField w) (raField w) (instField w)

theorem row_readFrom (i : Instr) (w : Word) : (i.readFrom w).row = i.row := by cases i <;> rfl

/-- R107: the encoder puts each operand where R101 has it. -/
theorem readFrom_encode (i : Instr) : i.readFrom (encode i) = i := by
  cases i <;> simp [Instr.readFrom, encode]

/-- A word of a row is the encoding of the command it stands for: the operands are read from the word, and the fields
that are no operands are those of the pattern. -/
theorem encode_readFrom {i : Instr} {w : Word} (h : i.row.Matches w) : encode (i.readFrom w) = w := by
  cases i
  case ldhi | orlo =>
    rw [Instr.row] at h
    refine .trans ?_ (fieldsImm_of_word (h.field (by decide) (by decide)))
    simp only [encode, Instr.readFrom]
    congr 1
    exact (h.field (by decide) (by decide)).symm
  all_goals
    rw [Instr.row] at h
    refine .trans ?_ (fields_of_word w)
    simp only [encode, Instr.readFrom, unitNumber_unitField]
    congr 1
    all_goals exact (h.field (by decide) (by decide)).symm

/-! ## Check 2 of R105 -/

theorem accept_of_matches {w : Word} {r : Row} (h : r.Matches w) (i : Instr) : accept w r i = .ok i := if_pos h

theorem acceptEither_of_matches_left {w : Word} {r₀ : Row} (h : r₀.Matches w) (i₀ : Instr) (r₁ : Row)
    (i₁ : Instr) : acceptEither w r₀ i₀ r₁ i₁ = .ok i₀ := if_pos h

/-- Two rows of one opcode differ in `mode` alone, so a word matches at most one of them. -/
theorem acceptEither_of_matches_right {w : Word} {r₀ r₁ : Row} (h : r₁.Matches w) (hmask : r₀.mask = r₁.mask)
    (hpattern : r₀.pattern ≠ r₁.pattern) (i₀ i₁ : Instr) : acceptEither w r₀ i₀ r₁ i₁ = .ok i₁ := by
  have hnot : ¬ r₀.Matches w := fun h₀ => hpattern (by rw [← h₀, ← h, hmask])
  rw [acceptEither, if_neg hnot, accept_of_matches h]

/-- R105: a word of a row decodes to the command it stands for. -/
theorem decode_of_matches {i : Instr} {w : Word} (h : i.row.Matches w) : decode w = .ok (i.readFrom w) := by
  have hop := h.opField (row_mem_opcodeTable i)
  cases i <;> rw [Instr.row] at h hop <;> rw [decode, hop]
  case satTanh | cos2pi | cvtifAsym | cvtfiAsym =>
    exact acceptEither_of_matches_right h (by decide) (by decide) _ _
  case satAtan | sin2pi | cvtifSym | cvtfiSym => exact acceptEither_of_matches_left h _ _ _
  all_goals exact accept_of_matches h _

/-- R105, R108: a word of no row is rejected for its opcode if that is reserved, else for a field. Every arm of the
decoder answers the same then, and the opcodes without an arm are the reserved ones. -/
theorem decode_of_no_match {w : Word} (h : ∀ r ∈ opcodeTable, ¬ r.Matches w) :
    decode w = .error (if opReserved (opField w) then .illegalOpcode else .reservedField) := by
  simp only [opcodeTable, List.cons_append, List.nil_append, List.forall_mem_cons] at h
  simp only [decode, accept, acceptEither, h, if_false]
  generalize opField w = op
  revert op
  decide

/-- A command of each row of the table. -/
def rowCommands : List Instr :=
  [.nop, .rst .global 0, .setp 0 .global 0 0, .getp 0 .global 0 0, .gets 0 .global 0 0, .coef 0 .global 0,
    .ldhi 0 0, .orlo 0 0, .mov 0 0, .fadd 0 0 0, .fsub 0 0 0, .fmul 0 0 0, .clamp 0 0 0 0, .lerp 0 0 0 0,
    .satAtan 0 0 0, .satTanh 0 0 0, .sin2pi 0 0, .cos2pi 0 0, .cvtifSym 0 0, .cvtifAsym 0 0, .cvtfiSym 0 0,
    .cvtfiAsym 0 0, .bqStep 0 0 0, .lpStep 0 0 0, .hpStep 0 0 0, .scStep 0 0 0, .dlWr 0 0, .dlRd 0 0 0,
    .dcStep 0 0 0, .liStep 0 0 0 0, .dsStep 0 0 0, .xoStep 0 0 0, .mdStep 0 0 0, .ncoStep 0 0 0,
    .zcStep 0 0 0 0, .envStep 0 0 0, .gpStep 0 0 0]

theorem map_row_rowCommands : rowCommands.map Instr.row = opcodeTable := rfl

theorem exists_command_of_mem_opcodeTable {r : Row} (h : r ∈ opcodeTable) : ∃ i : Instr, i.row = r := by
  rw [← map_row_rowCommands] at h
  obtain ⟨i, -, hi⟩ := List.mem_map.1 h
  exact ⟨i, hi⟩

/-- R105: only a word of a row decodes. -/
theorem exists_matches_of_decode {w : Word} {i : Instr} (h : decode w = .ok i) :
    ∃ j : Instr, j.row.Matches w ∧ j.readFrom w = i := by
  by_cases hno : ∀ r ∈ opcodeTable, ¬ r.Matches w
  · rw [decode_of_no_match hno] at h
    cases h
  · push Not at hno
    obtain ⟨r, hr, hmatch⟩ := hno
    obtain ⟨j, rfl⟩ := exists_command_of_mem_opcodeTable hr
    exact ⟨j, hmatch, Except.ok.inj ((decode_of_matches hmatch).symm.trans h)⟩

/-- R109: no word is a word of two rows. -/
theorem Row.Matches.unique {r r' : Row} {w : Word} (h : r.Matches w) (h' : r'.Matches w) (hr : r ∈ opcodeTable)
    (hr' : r' ∈ opcodeTable) : r' = r := by
  obtain ⟨i, rfl⟩ := exists_command_of_mem_opcodeTable hr
  obtain ⟨j, rfl⟩ := exists_command_of_mem_opcodeTable hr'
  have hsame : j.readFrom w = i.readFrom w :=
    Except.ok.inj ((decode_of_matches h').symm.trans (decode_of_matches h))
  rw [← row_readFrom j w, hsame, row_readFrom]

/-! ## The statements about the encoding -/

/-- Settles O1: the encoded word is a word of the command's row, and its fields are the command's operands. -/
theorem decodeInvertsEncode : Obligations.DecodeInvertsEncode := fun i => by
  rw [decode_of_matches (row_matches_encode i), readFrom_encode]

/-- Settles O2: only a word of a row decodes, and it is the encoding of what it stands for. -/
theorem encodeInvertsDecode : Obligations.EncodeInvertsDecode := by
  intro w i h
  obtain ⟨j, hmatch, rfl⟩ := exists_matches_of_decode h
  exact encode_readFrom hmatch

/-- R102, R108: the reserved opcodes, by the value of the word's upper bits. -/
theorem opReserved_opField_iff (w : Word) :
    opReserved (opField w) = true ↔
      (0x12 ≤ w.toNat / 2 ^ 26 ∧ w.toNat / 2 ^ 26 ≤ 0x1F) ∨ 0x2F ≤ w.toNat / 2 ^ 26 := by
  have hop : (opField w).toNat = w.toNat / 2 ^ 26 := by
    rw [opField, BitVec.extractLsb'_toNat, Nat.shiftRight_eq_div_pow]
    have hw := w.isLt
    omega
  rw [opReserved, hop]
  simp

/-- Settles O3: a word matches no row, or it decodes to a command of the one row it matches. -/
theorem everyWordIsOneRowOrRejected : Obligations.EveryWordIsOneRowOrRejected := by
  intro w op reserved
  have hres : opReserved (opField w) = true ↔ reserved := opReserved_opField_iff w
  refine ⟨fun h => ?_, fun h hno => ?_, fun r hr hmatch => ⟨?_, fun r' hr' hmatch' => ?_⟩⟩
  · have hno : ∀ r ∈ opcodeTable, ¬ r.Matches w := fun r hr hmatch =>
      Bool.eq_false_iff.1 (hmatch.opReserved hr) (hres.2 h)
    rw [decode_of_no_match hno, if_pos (hres.2 h)]
  · rw [decode_of_no_match hno, if_neg (mt hres.1 h)]
  · obtain ⟨i, rfl⟩ := exists_command_of_mem_opcodeTable hr
    exact ⟨i.readFrom w, decode_of_matches hmatch, row_readFrom i w⟩
  · exact Row.Matches.unique hmatch hmatch' hr hr'

/-- Settles O4: each word is the encoding of the command beside it. -/
theorem wordsOfTheSpecDecode : Obligations.WordsOfTheSpecDecode := by
  have hdecode {w : Word} {i : Instr} (h : encode i = w) : decode w = .ok i := h ▸ decodeInvertsEncode i
  refine ⟨?_, ?_, ?_, ?_, ?_, ?_, ?_, ?_, ?_, ?_, ?_⟩
  all_goals exact hdecode (by decide)

end Sys2Proof

namespace Sys2Proof.Machine

/-- Settles O6: what does not decode is handed to the rejection. -/
theorem stepRejectsOtherWords : Obligations.StepRejectsOtherWords := by
  intro s rest w c hbus hdecode
  refine ⟨_, ?_, reject_spec { s with bus := rest } c⟩
  rw [step_write hbus (by decide) (by decide), busWrite, if_neg (by decide), if_pos rfl, runCommand, hdecode]

end Sys2Proof.Machine

/-! SUPPORT. The checks of 30_encoding.md R105 that the decoder leaves to the command: which cause a command meets, and
that its meaning makes these checks and no others. -/

namespace Sys2Proof.Machine

/-! ## ILL and CAUSE under the operations of a command (10_state.md R34) -/

/-- ILL and CAUSE are as before. -/
structure IllKept (s t : State) : Prop where
  ill : t.ill = s.ill
  cause : t.cause = s.cause

theorem illKept_of_status {s t : State} (h : t.status = s.status) : IllKept s t :=
  ⟨by rw [State.ill, h, State.ill], by rw [State.cause, h, State.cause]⟩

theorem IllKept.trans {s t u : State} (h : IllKept s t) (h' : IllKept t u) : IllKept s u :=
  ⟨h'.ill.trans h.ill, h'.cause.trans h.cause⟩

theorem illKept_setFlags (s : State) {m : Word} (hm : m ∈ flagMasks) : IllKept s (s.setFlags m) := by
  obtain ⟨-, hcause, hill⟩ := flagMasks_fields m hm
  constructor
  · rw [State.ill, setFlags_status, BitVec.getLsbD_or, hill, Bool.or_false, State.ill]
  · rw [State.cause, setFlags_status, BitVec.extractLsb'_or, hcause, BitVec.or_zero, State.cause]

theorem illKept_setFlagIf (s : State) (c : Bool) {m : Word} (hm : m ∈ flagMasks) : IllKept s (s.setFlagIf c m) := by
  cases c
  · exact illKept_of_status rfl
  · exact illKept_setFlags s hm

theorem illKept_stickyNV (s : State) (xs : List Word) : IllKept s (s.stickyNV xs) := by
  unfold State.stickyNV
  split
  · exact illKept_setFlags s (by simp [flagMasks])
  · exact illKept_of_status rfl

theorem illKept_writeReg (s : State) (r : Reg) (v : Word) : IllKept s (s.writeReg r v) := illKept_of_status rfl

theorem illKept_result (s : State) (nv : List Word) (rd : Reg) (y : Word) : IllKept s (s.result nv rd y) :=
  (illKept_stickyNV s nv).trans (illKept_writeReg ..)

theorem illKept_writeSample (s : State) (rd : Reg) (v : Word) : IllKept s (s.writeSample rd v) :=
  (illKept_setFlagIf s _ (by simp [flagMasks])).trans (illKept_writeReg ..)

theorem illKept_paramWrite (s : State) (u : UnitName) (i idx : Nat) (x : Word) :
    IllKept s (s.paramWrite u i idx x) := by
  unfold State.paramWrite
  split
  · exact illKept_setFlags s (by simp [flagMasks])
  · split
    · exact illKept_of_status rfl
    · exact (illKept_setFlagIf s _ (by simp [flagMasks])).trans (illKept_of_status (setParam_status ..))

/-! ## Parameters and state registers that exist (10_state.md R39, R59) -/

theorem bind_getElem?_eq_none_iff {α : Type} {l : List α} {i : Nat} {f : α → Option Word} {p : Prop}
    (hi : i < l.length) (hf : ∀ x, f x = none ↔ p) : l[i]?.bind f = none ↔ p := by
  rw [List.getElem?_eq_getElem hi, Option.bind_some, hf]

/-- The parameters of a unit are those of its table. -/
theorem param_eq_none_iff {s : State} {u : UnitName} (hu : u ≠ .all) {i : Nat} (hi : i < s.count u) (idx : Nat) :
    s.param? u i idx = none ↔ paramCount u ≤ idx := by
  cases u
  case all => exact absurd rfl hu
  case global =>
    obtain rfl : i = 0 := Nat.lt_one_iff.1 hi
    simp [State.param?, paramCount, paramTable, Nat.one_le_iff_ne_zero]
  case dl | li => exact bind_getElem?_eq_none_iff hi fun x => by simp [paramDl, paramLi, paramCount, paramTable]
  all_goals
    refine bind_getElem?_eq_none_iff hi fun x => ?_
    simp only [paramBq, paramLp, paramHp, paramSc, paramDc, paramDs, paramXo, paramMd, paramNco,
      paramZc, paramEnv, paramGp]
    split
  all_goals simp_all [paramCount, paramTable]
  all_goals omega

/-- The state registers of a unit are those of its table. -/
theorem stateReg_eq_none_iff {s : State} {u : UnitName} (hu : u ≠ .all) {i : Nat} (hi : i < s.count u) (idx : Nat) :
    s.stateReg? u i idx = none ↔ stateCount u ≤ idx := by
  cases u
  case all => exact absurd rfl hu
  case global => simp [State.stateReg?, stateCount, stateTable]
  case sc | md => exact bind_getElem?_eq_none_iff hi fun x => by simp [stateRegSc, stateRegMd, stateCount, stateTable]
  all_goals
    refine bind_getElem?_eq_none_iff hi fun x => ?_
    simp only [stateRegBq, stateRegLp, stateRegHp, stateRegDl, stateRegDc, stateRegLi, stateRegDs, stateRegXo,
      stateRegNco, stateRegZc, stateRegEnv, stateRegGp]
    split
  all_goals simp_all [stateCount, stateTable]
  all_goals omega

/-! ## A command makes the checks of R105 -/

/-- What a command may come to: the rejection for the cause its checks name, or else a next state with ILL and CAUSE as
before. MD alone can be rejected past its checks, for a DL that `dlsel` names and the block does not have (log 13). -/
def Answers (s : State) (r : Result) : Option Cause → Prop
  | some c => r = .next (s.reject c)
  | none => ∃ t, r = .next t ∧ (t = s.reject .badInstance ∨ IllKept s t)

theorem answers_reject (s : State) (c : Cause) : Answers s (.next (s.reject c)) (some c) := rfl

theorem answers_kept {s t : State} (h : IllKept s t) : Answers s (.next t) none := ⟨t, rfl, .inr h⟩

/-- R105 check 4: a bank that is not there. -/
theorem instanceCheck_missing {s : State} {u : UnitName} {n : InstNo} (h : s.count u ≤ n.toNat) :
    instanceCheck s u n = some .badInstance := if_pos h

theorem answers_missing {α : Type} {s : State} {u : UnitName} {n : InstNo} {l : List α} (h : l[n.toNat]? = none)
    (hl : l.length = s.count u) : Answers s (.next (s.reject .badInstance)) (instanceCheck s u n) := by
  rw [instanceCheck_missing (hl ▸ List.getElem?_eq_none_iff.1 h)]
  exact answers_reject s _

theorem answers_found {α : Type} {s : State} {u : UnitName} {n : InstNo} {l : List α} {x : α} {r : Result}
    (h : l[n.toNat]? = some x) (hl : l.length = s.count u) (hr : Answers s r none) :
    Answers s r (instanceCheck s u n) := by
  rw [instanceCheck_none (hl ▸ lt_length_of_getElem? h)]
  exact hr

/-! ### Control commands -/

theorem execRst_answers (s : State) (u : UnitName) (n : InstNo) :
    Answers s (execRst u n s) (rejectCause s (.rst u n)) := by
  rw [execRst, rejectCause, instanceCheck]
  split
  · exact answers_reject s _
  · split
    · exact answers_kept (illKept_of_status (resetAll_status s))
    · exact answers_kept (illKept_of_status (resetInstance_status s u _))

theorem execSetp_answers (s : State) (ra : Reg) (u : UnitName) (n : InstNo) (idx : Idx) :
    Answers s (execSetp ra u n idx s) (rejectCause s (.setp ra u n idx)) := by
  rw [execSetp, rejectCause, bankCheck]
  split
  · exact answers_reject s _
  · split
    · exact answers_reject s _
    · split
      · exact answers_reject s _
      · exact answers_kept (illKept_paramWrite ..)

theorem execGetp_answers (s : State) (rd : Reg) (u : UnitName) (n : InstNo) (idx : Idx) :
    Answers s (execGetp rd u n idx s) (rejectCause s (.getp rd u n idx)) := by
  rw [execGetp, rejectCause, bankCheck]
  split
  · exact answers_reject s _
  · rename_i hu
    split
    · exact answers_reject s _
    · rename_i hn
      have hnone := param_eq_none_iff hu (not_le.1 hn) idx.toNat
      split
      · rename_i hp
        rw [if_pos (hnone.1 hp)]
        exact answers_reject s _
      · rename_i v hp
        rw [if_neg (mt hnone.2 (by simp [hp]))]
        exact answers_kept (illKept_writeReg ..)

theorem execGets_answers (s : State) (rd : Reg) (u : UnitName) (n : InstNo) (idx : Idx) :
    Answers s (execGets rd u n idx s) (rejectCause s (.gets rd u n idx)) := by
  rw [execGets, rejectCause, bankCheck]
  split
  · exact answers_reject s _
  · rename_i hu
    split
    · exact answers_reject s _
    · rename_i hn
      have hnone := stateReg_eq_none_iff hu (not_le.1 hn) idx.toNat
      split
      · rename_i hp
        rw [if_pos (hnone.1 hp)]
        exact answers_reject s _
      · rename_i v hp
        rw [if_neg (mt hnone.2 (by simp [hp]))]
        exact answers_kept (illKept_writeReg ..)

theorem execCoef_answers (s : State) (ra : Reg) (u : UnitName) (n : InstNo) :
    Answers s (execCoef ra u n s) (rejectCause s (.coef ra u n)) := by
  rw [execCoef, rejectCause, instanceCheck]
  cases coefUnit u
  · exact answers_reject s _
  · rw [if_neg Bool.noConfusion, if_pos rfl]
    split
    · exact answers_reject s _
    · dsimp only
      split
      · exact answers_kept (illKept_setFlags s (by simp [flagMasks]))
      · exact answers_kept ((illKept_setFlagIf s _ (by simp [flagMasks])).trans (illKept_paramWrite ..))

/-! ### Sample conversions -/

theorem execCvtfiSym_answers (s : State) (rd ra : Reg) : Answers s (execCvtfiSym rd ra s) none := by
  unfold execCvtfiSym
  dsimp only
  split
  · exact answers_kept (illKept_result ..)
  · exact answers_kept (illKept_writeSample ..)

theorem execCvtfiAsym_answers (s : State) (rd ra : Reg) : Answers s (execCvtfiAsym rd ra s) none := by
  unfold execCvtfiAsym
  dsimp only
  split
  · exact answers_kept (illKept_result ..)
  · exact answers_kept (illKept_writeSample ..)

/-! ### Step commands -/

/-- The common end of the step commands: the new bank, then the result. -/
theorem answers_bank_result {s t : State} (h : t.status = s.status) (nv : List Word) (rd : Reg) (y : Word) :
    Answers s (.next (t.result nv rd y)) none :=
  answers_kept ((illKept_of_status h).trans (illKept_result t nv rd y))

/-- R105: the pair is checked after the bank. -/
theorem execXoStep_answers (s : State) (rd ra : Reg) (n : InstNo) :
    Answers s (execXoStep rd ra n s) (rejectCause s (.xoStep rd ra n)) := by
  rw [execXoStep, rejectCause]
  split
  · rename_i hx
    have hcheck : instanceCheck s .xo n = some .badInstance :=
      instanceCheck_missing (List.getElem?_eq_none_iff.1 hx)
    rw [hcheck]
    exact answers_reject s _
  · rename_i u hx
    have hcheck : instanceCheck s .xo n = none := instanceCheck_none (lt_length_of_getElem? hx)
    rw [hcheck, Option.none_or]
    split
    · exact answers_reject s _
    · refine answers_kept (.trans (.trans (illKept_of_status ?_) (illKept_result ..)) (illKept_writeReg ..))
      exact setXo_status ..

/-- The DL is looked up after the checks. -/
theorem execMdStep_answers (s : State) (rd ra : Reg) (n : InstNo) :
    Answers s (execMdStep rd ra n s) (rejectCause s (.mdStep rd ra n)) := by
  rw [execMdStep, rejectCause]
  split
  · rename_i h
    exact answers_missing h rfl
  · rename_i u h
    refine answers_found h rfl ?_
    split
    · exact ⟨_, rfl, .inl rfl⟩
    · exact answers_kept (illKept_result ..)

/-- Every command makes the checks of R105, in their order, and no others. -/
theorem exec_answers (s : State) (i : Instr) : Answers s (exec i s) (rejectCause s i) := by
  cases i with
  | nop => exact answers_kept (illKept_of_status rfl)
  | rst u n => exact execRst_answers s u n
  | setp ra u n idx => exact execSetp_answers s ra u n idx
  | getp rd u n idx => exact execGetp_answers s rd u n idx
  | gets rd u n idx => exact execGets_answers s rd u n idx
  | coef ra u n => exact execCoef_answers s ra u n
  | ldhi | orlo | mov | cvtifSym | cvtifAsym => exact answers_kept (illKept_writeReg ..)
  | fadd | fsub | fmul | clamp | lerp | satAtan | satTanh | sin2pi | cos2pi => exact answers_kept (illKept_result ..)
  | cvtfiSym rd ra => exact execCvtfiSym_answers s rd ra
  | cvtfiAsym rd ra => exact execCvtfiAsym_answers s rd ra
  | xoStep rd ra n => exact execXoStep_answers s rd ra n
  | mdStep rd ra n => exact execMdStep_answers s rd ra n
  | dlWr =>
    rw [exec, execDlWr, rejectCause]
    split
    · rename_i h
      exact answers_missing h rfl
    · rename_i u h
      exact answers_found h rfl (answers_kept (.trans (illKept_of_status (setDl_status ..)) (illKept_stickyNV ..)))
  | bqStep | lpStep | hpStep | scStep | dlRd | dcStep | liStep | dsStep | ncoStep | zcStep | envStep | gpStep =>
    simp only [exec, execBqStep, execLpStep, execHpStep, execScStep, execDlRd, execDcStep, execLiStep, execDsStep,
      execNcoStep, execZcStep, execEnvStep, execGpStep, rejectCause]
    split
    · rename_i h
      exact answers_missing h rfl
    · rename_i u h
      refine answers_found h rfl (answers_bank_result ?_ ..)
      rfl

/-! ## The checks that the word decides -/

theorem instanceCheck_range (s : State) (u : UnitName) (n : InstNo) :
    instanceCheck s u n = none ∨ instanceCheck s u n = some .badInstance := by
  unfold instanceCheck
  split
  · exact .inr rfl
  · exact .inl rfl

/-- R105 check 4: GLOBAL and ALL are one bank in every state. -/
theorem count_le_of_not_singletonInstOk {u : UnitName} {n : InstNo} (h : singletonInstOk u n = false) (s : State) :
    s.count u ≤ n.toNat := by
  obtain ⟨hu, hn⟩ : isSingleton u = true ∧ n.toNat ≠ 0 := by simpa [singletonInstOk] using h
  have hcount : s.count u = 1 := by cases u <;> simp_all [isSingleton, State.count]
  omega

/-- The checks of SETP, GETP and GETS that the word decides. -/
theorem bankCheck_of_wordOk {u : UnitName} {n : InstNo} {idx : Idx} {k : Nat}
    (h : (u != .all && singletonInstOk u n && decide (idx.toNat < k)) = true) (s : State) :
    bankCheck s u n idx k = none ∨ bankCheck s u n idx k = some .badInstance := by
  obtain ⟨⟨hu, -⟩, hidx⟩ : (u ≠ .all ∧ singletonInstOk u n = true) ∧ idx.toNat < k := by simpa using h
  rw [bankCheck, if_neg hu, if_neg (not_le.2 hidx)]
  exact instanceCheck_range s u n

theorem bankCheck_of_wordBad {u : UnitName} {n : InstNo} {idx : Idx} {k : Nat}
    (h : (u != .all && singletonInstOk u n && decide (idx.toNat < k)) = false) (s : State) :
    ∃ c, bankCheck s u n idx k = some c := by
  rw [bankCheck]
  split
  · exact ⟨_, rfl⟩
  · rename_i hu
    split
    · exact ⟨_, rfl⟩
    · rename_i hn
      have hone : singletonInstOk u n = true :=
        Bool.eq_true_of_not_eq_false fun hbad => hn (count_le_of_not_singletonInstOk hbad s)
      have hidx : k ≤ idx.toNat := by simpa [hu, hone] using h
      exact ⟨_, if_pos hidx⟩

/-- R105: a well-formed command fails check 4 or none. -/
theorem rejectCause_of_wellFormed {i : Instr} (h : i.wellFormed = true) (s : State) :
    rejectCause s i = none ∨ rejectCause s i = some .badInstance := by
  cases i
  case setp | getp | gets => exact bankCheck_of_wordOk h s
  case coef ra u n =>
    rw [Instr.wellFormed] at h
    rw [rejectCause, if_pos h]
    exact instanceCheck_range s u n
  case xoStep rd ra n =>
    have heven : ¬ rd.toNat % 2 = 1 := by
      rw [Instr.wellFormed, beq_iff_eq] at h
      omega
    rw [rejectCause, if_neg heven, Option.or_none]
    exact instanceCheck_range s .xo n
  case nop | ldhi | orlo | mov | fadd | fsub | fmul | clamp | lerp | satAtan | satTanh | sin2pi | cos2pi | cvtifSym |
      cvtifAsym | cvtfiSym | cvtfiAsym => exact .inl rfl
  all_goals exact instanceCheck_range s _ _

/-- R105: a command that is not well-formed fails a check in every state. -/
theorem rejectCause_of_illFormed {i : Instr} (h : i.wellFormed = false) (s : State) :
    ∃ c, rejectCause s i = some c := by
  cases i
  case rst u n => exact ⟨_, instanceCheck_missing (count_le_of_not_singletonInstOk h s)⟩
  case setp | getp | gets => exact bankCheck_of_wordBad h s
  case coef ra u n =>
    rw [Instr.wellFormed] at h
    exact ⟨.badUnit, by rw [rejectCause, h, if_neg Bool.false_ne_true]⟩
  case xoStep rd ra n =>
    have hodd : rd.toNat % 2 = 1 := by
      rw [Instr.wellFormed, beq_eq_false_iff_ne] at h
      omega
    rw [rejectCause, if_pos hodd]
    rcases instanceCheck_range s .xo n with hc | hc <;> rw [hc] <;> exact ⟨_, rfl⟩
  all_goals cases h

/-- Settles O13: a command makes the checks of R105, and its word decides which can fail. -/
theorem illFormedCommandsAreRejected : Obligations.IllFormedCommandsAreRejected := by
  intro i s
  have hans := exec_answers s i
  refine ⟨fun hill => ?_, fun hwell => ?_⟩
  · obtain ⟨c, hc⟩ := rejectCause_of_illFormed hill s
    rw [hc] at hans
    exact ⟨c, s.reject c, hc, hans, reject_spec s c⟩
  · rcases rejectCause_of_wellFormed hwell s with hc | hc <;> rw [hc] at hans ⊢
    · obtain ⟨t, ht, rfl | hkept⟩ := hans
      · exact ⟨nofun, _, ht, .inl (reject_spec s _)⟩
      · exact ⟨nofun, t, ht, .inr ⟨hkept.ill, hkept.cause⟩⟩
    · exact ⟨fun c h => (Option.some.inj h).symm, _, hans, .inl (reject_spec s _)⟩

end Sys2Proof.Machine

/-! SUPPORT. The control commands (40_control.md): what a parameter write comes to (10_state.md R41), the coefficient that
COEF designs (R145), and the words that GETP and GETS copy (R143, R144). -/

namespace Sys2Proof.Machine

open F32

/-! ## A parameter write -/

/-- The change from `s` to `t` is a write of `v` to one parameter that exists, with `bits` added to STATUS. -/
structure WroteParam (u : UnitName) (i idx : Nat) (v bits : Word) (s t : State) : Prop where
  touched : touchedOnly [u] bits s t
  config : t.config = s.config
  written : t.param? u i idx = some v
  otherParams : ∀ j k, (j, k) ≠ (i, idx) → t.param? u j k = s.param? u j k
  bankState : ∀ j, BankStateKept u j s t

theorem wroteParam_setParam {s : State} {u : UnitName} {i idx : Nat} {w : Word} (h : s.param? u i idx = some w)
    (v : Word) : WroteParam u i idx v 0 s (s.setParam u i idx v) where
  touched := setParam_frame s u i idx v
  config := setParam_config s u i idx v
  written := param_setParam_same h
  otherParams j k hjk := param_setParam_other (by
    rw [Ne, Prod.mk.injEq] at hjk
    omega)
  bankState := bankStateKept_setParam s u i idx v u

theorem banksKept_setFlagIf (s : State) (c : Bool) (m : Word) : banksKept [] s (s.setFlagIf c m) := by
  simp [banksKept]

/-- A flag that is set before the write adds its bit. -/
theorem WroteParam.of_setFlagIf {u : UnitName} {i idx : Nat} {v bits : Word} {s t : State} {c : Bool} {m : Word}
    (h : WroteParam u i idx v bits (s.setFlagIf c m) t) : WroteParam u i idx v (bitIf c m ||| bits) s t := by
  obtain ⟨⟨hregs, hstatus, hbanks, hbus⟩, hconfig, hwritten, hother, hstate⟩ := h
  have hflag := banksKept_setFlagIf s c m
  have hparams := paramsKept_of_banksKept hflag
  refine ⟨⟨?_, ?_, ?_, ?_⟩, hconfig.trans hparams.config, hwritten,
    fun j k hjk => (hother j k hjk).trans (hparams.param u j k), fun j => ?_⟩
  · simpa [regsKept] using hregs
  · rw [hstatus, setFlagIf_status_bits, BitVec.or_assoc]
  · simpa [banksKept] using hbanks
  · simpa [busKept] using hbus
  · have hbank := bankStateKept_of_banksKept hflag (v := u) List.not_mem_nil j
    exact ⟨fun k => ((hstate j).reg k).trans (hbank.reg k), fun a => ((hstate j).slot a).trans (hbank.slot a)⟩

/-- R39: a parameter of the unit's table exists in every bank. -/
theorem exists_param {s : State} {u : UnitName} (hu : u ≠ .all) {i idx : Nat} (hi : i < s.count u)
    (hidx : idx < paramCount u) : ∃ w, s.param? u i idx = some w :=
  Option.ne_none_iff_exists'.1 (mt (param_eq_none_iff hu hi idx).1 (not_le.2 hidx))

/-- R59: a state register of the unit's table exists in every bank. -/
theorem exists_stateReg {s : State} {u : UnitName} (hu : u ≠ .all) {i idx : Nat} (hi : i < s.count u)
    (hidx : idx < stateCount u) : ∃ w, s.stateReg? u i idx = some w :=
  Option.ne_none_iff_exists'.1 (mt (stateReg_eq_none_iff hu hi idx).1 (not_le.2 hidx))

/-- R4: the selector ALL has no parameters. -/
theorem ne_all_of_paramTable {u : UnitName} {idx : Nat} {p : String × ParamClass} (h : (paramTable u)[idx]? = some p) :
    u ≠ .all := by
  rintro rfl
  cases h

/-- R41, R42: a parameter write of a value that is no NaN. -/
theorem wroteParam_paramWrite {s : State} {u : UnitName} {i idx : Nat} {x : Word} {name : String} {c : ParamClass}
    (hi : i < s.count u) (hc : (paramTable u)[idx]? = some (name, c)) (hx : isNaN x = false) :
    WroteParam u i idx (storedParam s i c x)
      (bitIf (!F32.eq (clamp x (s.classRange i c).1 (s.classRange i c).2) x) pclampMask) s (s.paramWrite u i idx x) := by
  rw [paramWrite_value hx hc, ← BitVec.or_zero (x := bitIf _ _)]
  generalize (!F32.eq (clamp x (s.classRange i c).1 (s.classRange i c).2) x) = b
  have hidx : idx < paramCount u := (List.getElem?_eq_some_iff.1 hc).1
  obtain ⟨w, hw⟩ := exists_param (ne_all_of_paramTable hc) hi hidx
  rw [← (paramsKept_of_banksKept (banksKept_setFlagIf s b pclampMask)).param] at hw
  exact (wroteParam_setParam hw _).of_setFlagIf

/-! ## COEF (R145) -/

theorem value_fcMaxRatio : value fcMaxRatio = 15099494 / 2 ^ 25 := by
  rw [value, show signedUnits fcMaxRatio = 15099494 * 2 ^ 124 by decide +kernel]; norm_num

theorem value_twoPi : value twoPi = 13176795 / 2 ^ 21 := by
  rw [value, show signedUnits twoPi = 13176795 * 2 ^ 128 by decide +kernel]; norm_num

/-- R40: the class FSR in numbers. -/
theorem value_of_inRange_fsr {fs : Word} (h : inRange 0x45FA0000 0x483B8000 fs) :
    isFinite fs = true ∧ 8000 ≤ value fs ∧ value fs ≤ 192000 := by
  have hlo : value 0x45FA0000 = 8000 := by
    rw [value, show signedUnits 0x45FA0000 = 8000 * 2 ^ 149 by decide +kernel]; norm_num
  have hhi : value 0x483B8000 = 192000 := by
    rw [value, show signedUnits 0x483B8000 = 192000 * 2 ^ 149 by decide +kernel]; norm_num
  obtain ⟨-, h1, h2⟩ := (inRange_iff_value (by decide) (by decide)).1 h
  rw [hlo] at h1
  rw [hhi] at h2
  exact ⟨isFinite_of_inRange (by decide) (by decide) h, h1, h2⟩

/-- R145: with FS in its range, the cutoff COEF designs at lies between FC_MIN and FS. -/
theorem designCutoff_inRange {fc fs : Word} (hfc : isNaN fc = false) (hfs : inRange 0x45FA0000 0x483B8000 fs) :
    inRange fcMin fs (designCutoff fc fs) := by
  obtain ⟨hfin, hlo, hhi⟩ := value_of_inRange_fsr hfs
  have hmul : NearestEven (value fcMaxRatio * value fs) (mul fcMaxRatio fs) := nearestEven_mul (by decide) hfin
  rw [value_fcMaxRatio] at hmul
  have hbound : inRange fcMin fs (mul fcMaxRatio fs) := by
    refine (inRange_iff_value (by decide) (isNaN_of_isFinite hfin)).2 ⟨hmul.isNaN_eq_false, ?_, ?_⟩
    · refine hmul.le_value (by decide) ?_
      rw [fcMin, value_one]
      linarith
    · exact hmul.value_le hfin (by linarith)
  obtain ⟨hmin, hmax⟩ := hbound
  obtain ⟨h1, h2⟩ := clamp_inRange hfc hmin
  exact ⟨h1, le_trans' h2 hmax⟩

/-- A quotient of a finite word by a word that is no zero and no NaN is no NaN. -/
theorem isNaN_div_of_isFinite {x y : Word} (hx : isFinite x = true) (hy : isNaN y = false) (h0 : isZero y = false) :
    isNaN (div x y) = false := by
  rcases isFinite_or_isInf hy with hfin | hinf
  · exact (nearestEven_div hx hfin h0).isNaN_eq_false
  · rw [div_of_isInf_right hx hinf]
    exact pack_zero_not_nan _

/-- A difference from a finite word of a word that is no NaN is no NaN. -/
theorem isNaN_sub_of_isFinite {x y : Word} (hx : isFinite x = true) (hy : isNaN y = false) :
    isNaN (sub x y) = false := by
  rcases isFinite_or_isInf hy with hfin | hinf
  · exact (nearestEven_sub hx hfin).isNaN_eq_false
  · rw [sub, add_of_isInf_right hx (by rw [isInf_neg, hinf]), isNaN_neg, hy]

theorem isZero_eq_false_of_value_pos {x : Word} (h : 0 < value x) : isZero x = false :=
  Bool.eq_false_iff.2 fun h0 => h.ne' (isZero_iff_value.1 h0)

/-- R145: with FS in its range, the coefficient COEF designs is no NaN: both its quotients have a finite dividend and a
divisor at least FS. -/
theorem isNaN_designCoef {fc fs : Word} (u : UnitName) (hfc : isNaN fc = false)
    (hfs : inRange 0x45FA0000 0x483B8000 fs) : isNaN (designCoef u (designCutoff fc fs) fs) = false := by
  obtain ⟨hfin, hlo, hhi⟩ := value_of_inRange_fsr hfs
  have hcut := designCutoff_inRange hfc hfs
  obtain ⟨-, hcmin, hcmax⟩ := (inRange_iff_value (by decide) (isNaN_of_isFinite hfin)).1 hcut
  rw [fcMin, value_one] at hcmin
  have hmul : NearestEven (value twoPi * value (designCutoff fc fs)) (mul twoPi (designCutoff fc fs)) :=
    nearestEven_mul (by decide) (isFinite_of_inRange (by decide) hfin hcut)
  rw [value_twoPi] at hmul
  have hw : isFinite (mul twoPi (designCutoff fc fs)) = true := by
    refine isFinite_of_nearestEven hmul (abs_le.2 ⟨?_, ?_⟩) <;> norm_num <;> linarith
  have hw0 : 0 ≤ value (mul twoPi (designCutoff fc fs)) := by
    rw [← value_zero]
    exact hmul.le_value (by decide) (by rw [value_zero]; linarith)
  unfold designCoef
  dsimp only
  generalize mul twoPi (designCutoff fc fs) = w at *
  split
  · have hadd := nearestEven_add hw hfin
    have hge := hadd.le_value hfin (by linarith)
    exact isNaN_div_of_isFinite hw hadd.isNaN_eq_false (isZero_eq_false_of_value_pos (by linarith))
  · have hdiv := isNaN_div_of_isFinite hw (isNaN_of_isFinite hfin) (isZero_eq_false_of_value_pos (by linarith))
    obtain ⟨-, hexp⟩ := exp_inRange (x := neg (div w fs)) (by rw [isNaN_neg, hdiv])
    obtain ⟨hexp, -⟩ := le_iff.1 hexp
    exact isNaN_sub_of_isFinite (by decide) hexp

/-- R145: the units COEF may name, and the parameter it writes. -/
theorem coefUnit_of_mem {u : UnitName} (hu : u = .lp ∨ u = .hp ∨ u = .ds ∨ u = .xo) :
    coefUnit u = true ∧ (paramTable u)[designIdx u]? = some ("a", .coef) := by
  rcases hu with rfl | rfl | rfl | rfl <;> exact ⟨rfl, rfl⟩

/-- COEF with a NaN cutoff. -/
theorem exec_coef_of_isNaN {s : State} {ra : Reg} {u : UnitName} {inst : InstNo} (hu : coefUnit u = true)
    (hi : inst.toNat < s.count u) (hfc : isNaN (s.freg ra) = true) :
    exec (.coef ra u inst) s = .next (s.setFlags pnanMask) := by
  rw [exec, execCoef, if_neg (by simp [hu]), if_neg (not_le.2 hi)]
  exact if_pos hfc

/-- COEF with a cutoff that is no NaN: its parameter write. -/
theorem exec_coef_of_value {s : State} {ra : Reg} {u : UnitName} {inst : InstNo} (hu : coefUnit u = true)
    (hi : inst.toNat < s.count u) (hfc : isNaN (s.freg ra) = false) :
    exec (.coef ra u inst) s =
      .next ((s.setFlagIf (!F32.eq (designCutoff (s.freg ra) s.fs) (s.freg ra)) pclampMask).paramWrite u inst.toNat
        (designIdx u) (designCoef u (designCutoff (s.freg ra) s.fs) s.fs)) := by
  rw [exec, execCoef, if_neg (by simp [hu]), if_neg (not_le.2 hi)]
  exact if_neg (by simp [hfc])

theorem bitIf_or (c c' : Bool) (m : Word) : bitIf c m ||| bitIf c' m = bitIf (c || c') m := by
  cases c <;> cases c' <;> simp [bitIf]

/-- R40, R41: a parameter write of a one-pole coefficient. -/
theorem wroteParam_paramWrite_coef {s : State} {u : UnitName} {i idx : Nat} {a : Word} {name : String}
    (hi : i < s.count u) (hc : (paramTable u)[idx]? = some (name, .coef)) (ha : isNaN a = false) :
    WroteParam u i idx (clamp a aMin one) (bitIf (!F32.eq (clamp a aMin one) a) pclampMask) s (s.paramWrite u i idx a) :=
  wroteParam_paramWrite hi hc ha

/-- R145: everything COEF does with a cutoff `fc`, clamped to `fcc`, and a coefficient `a` that are no NaN. -/
theorem exec_coef_spec {s : State} {ra : Reg} {u : UnitName} {inst : InstNo} {fc fcc a : Word}
    (hu : coefUnit u = true) (hc : (paramTable u)[designIdx u]? = some ("a", .coef)) (hi : inst.toNat < s.count u)
    (hfc : s.freg ra = fc) (hfcc : designCutoff fc s.fs = fcc) (ha : designCoef u fcc s.fs = a)
    (hfcnan : isNaN fc = false) (hanan : isNaN a = false) :
    ∃ t, exec (.coef ra u inst) s = .next t ∧
      WroteParam u inst.toNat (designIdx u) (clamp a aMin one)
        (bitIf (!F32.eq fcc fc || !F32.eq (clamp a aMin one) a) pclampMask) s t := by
  subst hfc hfcc ha
  refine ⟨_, exec_coef_of_value hu hi hfcnan, ?_⟩
  rw [← bitIf_or]
  refine (wroteParam_paramWrite_coef ?_ hc hanan).of_setFlagIf
  rw [count_of_config (setFlagIf_config s _ pclampMask)]
  exact hi

/-- Settles O29: COEF is a flag for the cutoff and the parameter write of the designed coefficient. -/
theorem coefDesignsOneCoefficient : Obligations.CoefDesignsOneCoefficient := by
  intro s ra u inst hu hi fc fcc w a v aidx
  obtain ⟨hunit, htable⟩ := coefUnit_of_mem hu
  refine ⟨exec_coef_of_isNaN hunit hi, fun hfc ha => ?_, fun hfc hfs => isNaN_designCoef u hfc hfs⟩
  have hcutoff : designCutoff fc s.fs = fcc := rfl
  have hdesign : designCoef u fcc s.fs = a := rfl
  obtain ⟨t, hexec, htouched, hconfig, hwritten, hother, hstate⟩ :=
    exec_coef_spec (ra := ra) hunit htable hi rfl hcutoff hdesign hfc ha
  exact ⟨t, hexec, htouched, hconfig, hwritten, hother, fun j => (hstate j).reg⟩

/-! ## NOP (R140) -/

/-- The opcode is the value of the word's upper bits (R101). -/
theorem opField_toNat (w : Word) : (opField w).toNat = w.toNat / 2 ^ 26 := by
  rw [opField, BitVec.extractLsb'_toNat, Nat.shiftRight_eq_div_pow]
  have hw := w.isLt
  omega

/-- Settles O24: NOP's row fixes every bit of the word. -/
theorem nopChangesNothing : Obligations.NopChangesNothing := by
  refine ⟨by decide, fun _ => rfl, fun w hop hw => ?_⟩
  have hno : ¬ rowNop.Matches w := by
    intro h
    rw [Row.Matches, show rowNop.mask = BitVec.allOnes 32 from rfl, BitVec.and_allOnes] at h
    exact hw h
  rw [decode, opField_toNat, hop]
  exact if_neg hno

/-! ## SETP (R142) -/

theorem isInteger_iff {c : ParamClass} : c.isInteger = true ↔ c = .idxdl ∨ c = .hang := by
  cases c <;> simp [ParamClass.isInteger]

theorem storedParam_eq (s : State) (i : Nat) (c : ParamClass) (x : Word) :
    storedParam s i c x = if c = .idxdl ∨ c = .hang then trunc (clamp x (s.classRange i c).1 (s.classRange i c).2)
      else clamp x (s.classRange i c).1 (s.classRange i c).2 := by
  simp only [storedParam, isInteger_iff]

/-- SETP of a parameter that exists is its parameter write. -/
theorem exec_setp_of_exists {s : State} {ra : Reg} {u : UnitName} {inst : InstNo} {idx : Idx} (hu : u ≠ .all)
    (hi : inst.toNat < s.count u) (hidx : idx.toNat < paramCount u) :
    exec (.setp ra u inst idx) s = .next (s.paramWrite u inst.toNat idx.toNat (s.freg ra)) := by
  rw [exec, execSetp, if_neg hu, if_neg (not_le.2 hi), if_neg (not_le.2 hidx)]

/-- Settles O27: SETP of a parameter that exists is the write of R41. -/
theorem setpWritesOneParameter : Obligations.SetpWritesOneParameter := by
  refine ⟨rfl, fun s ra u inst idx name c hi hc => ?_⟩
  have hidx : idx.toNat < paramCount u := (List.getElem?_eq_some_iff.1 hc).1
  have hexec := exec_setp_of_exists (ra := ra) (ne_all_of_paramTable hc) hi hidx
  refine ⟨fun hnan => ?_, fun hx => ?_⟩
  · rw [hexec, paramWrite_nan hnan]
    rfl
  · have hwrite := wroteParam_paramWrite hi hc hx
    rw [storedParam_eq, classRange_eq_legalRange] at hwrite
    obtain ⟨htouched, hconfig, hwritten, hother, hstate⟩ := hwrite
    exact ⟨_, hexec, htouched, hconfig, hwritten, hother, fun j => (hstate j).reg, fun j => (hstate j).slot⟩

/-! ## GETP and GETS (R143, R144) -/

/-- The registers of a bank, read one by one, are those of its entry in the list. -/
theorem map_range_bank {α : Type} {l : List α} {i : Nat} {x : α} (h : l[i]? = some x) (f : α → Nat → Option Word)
    {n : Nat} {ws : List (Option Word)} (hf : (List.range n).map (f x) = ws) :
    (List.range n).map (fun idx => l[i]?.bind fun y => f y idx) = ws := by
  rw [h]
  exact hf

/-- GETP of a parameter that exists writes its word to `rd`. -/
theorem exec_getp_of_exists {s : State} (rd : Reg) {u : UnitName} {inst : InstNo} {idx : Idx} {v : Word} (hu : u ≠ .all)
    (hi : inst.toNat < s.count u) (hv : s.param? u inst.toNat idx.toNat = some v) :
    exec (.getp rd u inst idx) s = .next (s.writeReg rd v) := by
  rw [exec, execGetp, if_neg hu, if_neg (not_le.2 hi), hv]

/-- GETS of a state register that exists writes its word to `rd`. -/
theorem exec_gets_of_exists {s : State} (rd : Reg) {u : UnitName} {inst : InstNo} {idx : Idx} {v : Word} (hu : u ≠ .all)
    (hi : inst.toNat < s.count u) (hv : s.stateReg? u inst.toNat idx.toNat = some v) :
    exec (.gets rd u inst idx) s = .next (s.writeReg rd v) := by
  rw [exec, execGets, if_neg hu, if_neg (not_le.2 hi), hv]

/-- Settles O28: the registers of each unit one by one, and the copy of one of them to `rd`. -/
theorem getpAndGetsCopyOneRegister : Obligations.GetpAndGetsCopyOneRegister := by
  refine ⟨rfl, rfl, fun _ => rfl, fun s i => ?tables,
    fun s rd u inst idx hu hi => ⟨fun hidx => ?getp, fun hidx => ?gets⟩⟩
  case getp =>
    obtain ⟨v, hv⟩ := exists_param hu hi hidx
    exact ⟨v, _, hv, exec_getp_of_exists rd hu hi hv, writeReg_spec s rd v⟩
  case gets =>
    obtain ⟨v, hv⟩ := exists_stateReg hu hi hidx
    exact ⟨v, _, hv, exec_gets_of_exists rd hu hi hv, writeReg_spec s rd v⟩
  case tables =>
    exact ⟨rfl,
      fun _ h => ⟨map_range_bank h paramBq rfl, map_range_bank h stateRegBq rfl⟩,
      fun _ h => ⟨map_range_bank h paramLp rfl, map_range_bank h stateRegLp rfl⟩,
      fun _ h => ⟨map_range_bank h paramHp rfl, map_range_bank h stateRegHp rfl⟩,
      fun _ h => map_range_bank h paramSc rfl,
      fun _ h => map_range_bank h stateRegDl rfl,
      fun _ h => ⟨map_range_bank h paramDc rfl, map_range_bank h stateRegDc rfl⟩,
      fun _ h => map_range_bank h stateRegLi rfl,
      fun _ h => ⟨map_range_bank h paramDs rfl, map_range_bank h stateRegDs rfl⟩,
      fun _ h => ⟨map_range_bank h paramXo rfl, map_range_bank h stateRegXo rfl⟩,
      fun _ h => map_range_bank h paramMd rfl,
      fun _ h => ⟨map_range_bank h paramNco rfl, map_range_bank h stateRegNco rfl⟩,
      fun _ h => ⟨map_range_bank h paramZc rfl, map_range_bank h stateRegZc rfl⟩,
      fun _ h => ⟨map_range_bank h paramEnv rfl, map_range_bank h stateRegEnv rfl⟩,
      fun _ h => ⟨map_range_bank h paramGp rfl, map_range_bank h stateRegGp rfl⟩⟩

end Sys2Proof.Machine

/-! SUPPORT. Binary32 words with a given exact value, and how far a rounded result can lie from the exact one
(00_scope.md R14). -/

namespace Sys2Proof.Machine.F32

/-! ## Words on a grid -/

/-- An integer of at most 24 significant bits, scaled by a power of two, is the value of a word. -/
theorem exists_value_eq_scaled {n : ℤ} (hn : n.natAbs ≤ 2 ^ 24) {k : ℕ} (hk : k ≤ 252) :
    ∃ v, isFinite v = true ∧ value v = n * 2 ^ k / 2 ^ 149 := by
  obtain ⟨m, hm, he⟩ := exists_magUnits_eq hn hk
  have hm31 : m < 2 ^ 31 := hm.trans (by decide)
  refine ⟨pack (decide (n < 0)) m, by rwa [isFinite_iff, magBits_pack _ hm31], ?_⟩
  rw [value, signedUnits, units, sign_pack _ hm31, magBits_pack _ hm31, he]
  split
  · rename_i h
    push_cast [Nat.cast_natAbs, abs_of_neg (of_decide_eq_true h)]
    ring
  · rename_i h
    push_cast [Nat.cast_natAbs, abs_of_nonneg (not_lt.1 fun hc => h (decide_eq_true hc))]
    rfl

/-- Below `2 ^ 24` steps of size `2 ^ k` units, some word is at most half a step away. -/
theorem exists_value_near {q : ℚ} {k : ℕ} (hk : k ≤ 252) (hq : |q| ≤ 2 ^ 24 * (2 ^ k / 2 ^ 149)) :
    ∃ v, isFinite v = true ∧ |q - value v| ≤ 2 ^ k / 2 ^ 149 / 2 := by
  have hstep : (0 : ℚ) < 2 ^ k / 2 ^ 149 := by positivity
  obtain ⟨x, rfl⟩ : ∃ x, q = x * (2 ^ k / 2 ^ 149) := ⟨_, (div_mul_cancel₀ q hstep.ne').symm⟩
  obtain ⟨n, hround⟩ : ∃ n : ℤ, |x - n| ≤ 1 / 2 := ⟨_, abs_sub_round x⟩
  rw [abs_mul, abs_of_pos hstep, mul_le_mul_iff_left₀ hstep] at hq
  have hn : n.natAbs ≤ 2 ^ 24 := by
    obtain ⟨h1, h2⟩ := abs_le.1 hq
    obtain ⟨h3, h4⟩ := abs_le.1 hround
    have h5 : (n : ℚ) < (2 ^ 24 + 1 : ℤ) := by push_cast; linarith
    have h6 : ((-(2 ^ 24 + 1) : ℤ) : ℚ) < n := by push_cast; linarith
    rw [Int.cast_lt] at h5 h6
    omega
  obtain ⟨v, hv, hval⟩ := exists_value_eq_scaled hn hk
  refine ⟨v, hv, ?_⟩
  calc |x * (2 ^ k / 2 ^ 149) - value v| = |x - n| * (2 ^ k / 2 ^ 149) := by
        rw [hval, mul_div_assoc, ← sub_mul, abs_mul, abs_of_pos hstep]
    _ ≤ 1 / 2 * (2 ^ k / 2 ^ 149) := mul_le_mul_of_nonneg_right hround hstep.le
    _ = 2 ^ k / 2 ^ 149 / 2 := by ring

/-- A magnitude times a power of two is a magnitude, if it stays below the infinity's. -/
theorem exists_magUnits_mul {b j : ℕ} (hj : j ≤ 252) (h : b + j * 2 ^ 23 < infBits) :
    ∃ m < infBits, magUnits m = magUnits b * 2 ^ j := by
  rcases lt_or_ge b (2 ^ 23) with hb | hb
  · rw [magUnits_small (by omega)]
    exact exists_magUnits_eq (by omega) hj
  · obtain ⟨k, m, rfl, h1, h2⟩ := magBits_normal_form hb
    refine ⟨(k + j) * 2 ^ 23 + m, by linarith, ?_⟩
    rw [magUnits_normal h1 h2, magUnits_normal h1 h2, pow_add, mul_assoc]

/-- So is the value of a word, far enough below MAXF. -/
theorem exists_value_eq_mul_two_pow {x : Word} {j : ℕ} (hj : j ≤ 252) (h : magBits x + j * 2 ^ 23 < infBits) :
    ∃ v, isFinite v = true ∧ value v = value x * 2 ^ j := by
  obtain ⟨m, hm, he⟩ := exists_magUnits_mul hj h
  have hm31 : m < 2 ^ 31 := hm.trans (by decide)
  refine ⟨pack (sign x) m, by rwa [isFinite_iff, magBits_pack _ hm31], ?_⟩
  rw [value_eq_signedValue, value_eq_signedValue x, sign_pack _ hm31, units, magBits_pack _ hm31, he, ← units]
  cases sign x <;> simp [signedValue] <;> ring

/-- From `2 ^ 23` steps of size `2 ^ k` units on, every value is a whole number of steps. -/
theorem two_pow_dvd_units {x : Word} {k : ℕ} (hx : 2 ^ 23 * (2 ^ k / 2 ^ 149) ≤ |value x|) : 2 ^ k ∣ units x := by
  have h : 2 ^ 23 * 2 ^ k ≤ units x := by
    rw [abs_value, ← mul_div_assoc, div_le_div_iff_of_pos_right (by positivity)] at hx
    exact_mod_cast hx
  rcases lt_or_ge (magBits x) (2 ^ 23) with hb | hb
  · rw [units, magUnits_small (by omega)] at h
    have := Nat.le_mul_of_pos_right (2 ^ 23) (Nat.two_pow_pos k)
    omega
  · obtain ⟨j, m, hj, h1, h2⟩ := magBits_normal_form hb
    rw [units, hj, magUnits_normal h1 h2] at h ⊢
    have hlt : 2 ^ (23 + k) < 2 ^ (24 + j) := by
      rw [pow_add, pow_add]
      exact h.trans_lt (Nat.mul_lt_mul_of_pos_right h2 (Nat.two_pow_pos j))
    have := (Nat.pow_lt_pow_iff_right (by decide)).1 hlt
    exact (pow_dvd_pow 2 (by omega)).mul_left m

/-- Two words that are whole numbers of steps and less than a step apart have one value. -/
theorem value_eq_of_two_pow_dvd {x y : Word} {k : ℕ} (hx : 2 ^ k ∣ units x) (hy : 2 ^ k ∣ units y)
    (h : |value x - value y| < 2 ^ k / 2 ^ 149) : value x = value y := by
  have hdvd : (2 ^ k : ℤ) ∣ signedUnits x - signedUnits y := by
    have hs (z : Word) (hz : 2 ^ k ∣ units z) : (2 ^ k : ℤ) ∣ signedUnits z := by
      have : (2 ^ k : ℤ) ∣ (units z : ℤ) := by exact_mod_cast hz
      unfold signedUnits
      split
      · exact this.neg_right
      · exact this
    exact dvd_sub (hs x hx) (hs y hy)
  have hlt : |signedUnits x - signedUnits y| < 2 ^ k := by
    rw [value, value, ← sub_div, abs_div, abs_of_pos (by positivity : (0 : ℚ) < 2 ^ 149),
      div_lt_div_iff_of_pos_right (by positivity)] at h
    exact_mod_cast h
  rw [value, value, sub_eq_zero.1 (Int.eq_zero_of_abs_lt_dvd hdvd hlt)]

end Sys2Proof.Machine.F32

namespace Sys2Proof.Machine

open F32

/-- A finite word is no nearer to the exact number than the rounded one. -/
theorem NearestEven.abs_sub_value_le {q : ℚ} {w v : Word} (h : NearestEven q w) (hw : isFinite w = true)
    (hv : isFinite v = true) : |q - value w| ≤ |q - value v| := by
  unfold NearestEven at h
  split at h
  · exact (h.2 v hv).1
  · obtain ⟨hinf, -⟩ := h
    rw [isInf_of_isFinite hw] at hinf
    cases hinf

/-- The rounding error is at most half a step. -/
theorem NearestEven.abs_sub_le_half_step {q : ℚ} {w : Word} (h : NearestEven q w) (hw : isFinite w = true) {k : ℕ}
    (hk : k ≤ 252) (hq : |q| ≤ 2 ^ 24 * (2 ^ k / 2 ^ 149)) : |q - value w| ≤ 2 ^ k / 2 ^ 149 / 2 := by
  obtain ⟨v, hv, hnear⟩ := exists_value_near hk hq
  exact (h.abs_sub_value_le hw hv).trans hnear

/-- What lies less than half a step from a word on the grid rounds to that word. -/
theorem NearestEven.value_eq_of_abs_sub_lt {q : ℚ} {w v : Word} (h : NearestEven q w) (hw : isFinite w = true)
    (hv : isFinite v = true) {k : ℕ} (hwk : 2 ^ 23 * (2 ^ k / 2 ^ 149) ≤ |value w|)
    (hvk : 2 ^ 23 * (2 ^ k / 2 ^ 149) ≤ |value v|) (hclose : |q - value v| < 2 ^ k / 2 ^ 149 / 2) :
    value w = value v := by
  refine value_eq_of_two_pow_dvd (two_pow_dvd_units hwk) (two_pow_dvd_units hvk) ?_
  have htri := abs_sub_le (value w) q (value v)
  have hnear := h.abs_sub_value_le hw hv
  rw [abs_sub_comm q (value w)] at hnear
  linarith

end Sys2Proof.Machine

/-! SUPPORT. The scalar commands (41_scalar.md): the sample conversions as arithmetic on exact values, and the
statements about them. -/

namespace Sys2Proof.Machine

open F32

/-! ## The scales -/

theorem value_scale32768 : value scale32768 = 32768 := by
  rw [value, show signedUnits scale32768 = 32768 * 2 ^ 149 by decide +kernel]; norm_num

theorem value_scale32767 : value scale32767 = 32767 := by
  rw [value, show signedUnits scale32767 = 32767 * 2 ^ 149 by decide +kernel]; norm_num

theorem value_sampleMin : value sampleMin = -32768 := by
  rw [value, show signedUnits sampleMin = -32768 * 2 ^ 149 by decide +kernel]; norm_num

/-! ## The end of CVTFI: clamp, OCLAMP, truncation (R175, R176) -/

/-- R16: clamp32 between ordered bounds is the clamp of the exact values. -/
theorem value_clamp {x lo hi : Word} (hx : isNaN x = false) (h : le lo hi = true) :
    value (clamp x lo hi) = max (value lo) (min (value hi) (value x)) := by
  obtain ⟨hlo, hhi, -⟩ := le_iff.1 h
  have hle := (le_iff_value hlo hhi).1 h
  simp only [clamp]
  cases h1 : lt x lo
  · have hlx := (le_iff_value hlo hx).1 ((lt_false_iff hx hlo).1 h1)
    rw [if_neg Bool.false_ne_true]
    cases h2 : lt hi x
    · have hxh := (le_iff_value hx hhi).1 ((lt_false_iff hhi hx).1 h2)
      rw [if_neg Bool.false_ne_true, min_eq_right hxh, max_eq_right hlx]
    · rw [if_pos rfl, min_eq_left ((lt_iff_value hhi hx).1 h2).le, max_eq_right hle]
  · have hxl := (lt_iff_value hx hlo).1 h1
    rw [if_pos rfl, if_neg (by rw [(lt_false_iff hhi hlo).2 h]; exact Bool.false_ne_true),
      min_eq_right (hxl.le.trans hle), max_eq_left hxl.le]

theorem value_sampleClamp {v : Word} (hv : isNaN v = false) :
    value (sampleClamp v) = max (-32768) (min 32767 (value v)) := by
  rw [sampleClamp, value_clamp hv (by decide), value_sampleMin, value_scale32767]

theorem isFinite_sampleClamp {v : Word} (hv : isNaN v = false) : isFinite (sampleClamp v) = true :=
  isFinite_of_inRange (lo := sampleMin) (hi := scale32767) (by decide) (by decide) (clamp_inRange hv (by decide))

/-- The clamp changes a value exactly when it lies outside the int16 range. -/
theorem eq_sampleClamp_iff {v : Word} (hv : isNaN v = false) :
    F32.eq (sampleClamp v) v = true ↔ -32768 ≤ value v ∧ value v ≤ 32767 := by
  rw [eq_iff_value (isNaN_of_isFinite (isFinite_sampleClamp hv)) hv, value_sampleClamp hv]
  constructor
  · intro h
    rw [← h]
    exact ⟨le_max_left .., max_le (by norm_num) (min_le_left ..)⟩
  · rintro ⟨h1, h2⟩
    rw [min_eq_right h2, max_eq_right h1]

theorem toInt_trunc {x : Word} (h : isFinite x = true) : toInt (trunc x) = toInt x := by
  rw [toInt_eq (trunc x), value_trunc h, Int.ceil_intCast, Int.floor_intCast, ite_self]

/-- `int` of a value between two integers lies between them. -/
theorem toInt_bounds {x : Word} {a b : ℤ} (ha : (a : ℚ) ≤ value x) (hb : value x ≤ b) : a ≤ toInt x ∧ toInt x ≤ b := by
  rw [toInt_eq]
  split
  · exact ⟨Int.cast_le.1 (ha.trans (Int.le_ceil _)), Int.ceil_le.2 hb⟩
  · exact ⟨Int.le_floor.2 ha, Int.cast_le.1 ((Int.floor_le _).trans hb)⟩

/-- The clamp to the int16 range commutes with `int`. -/
theorem toInt_of_value_eq_clamp {c : Word} {q : ℚ} (h : value c = max (-32768) (min 32767 q)) :
    toInt c = max (-32768) (min 32767 (if q < 0 then ⌈q⌉ else ⌊q⌋)) := by
  have hneg : value c < 0 ↔ q < 0 := by
    rw [h, max_lt_iff, min_lt_iff]
    norm_num
  simp only [toInt_eq, hneg]
  rw [h]
  split
  · rw [Int.ceil_mono.map_max, Int.ceil_mono.map_min]
    norm_num
  · rw [Int.floor_mono.map_max, Int.floor_mono.map_min]
    norm_num

/-- The word CVTFI writes is the sign-extension of an int16. -/
theorem toInt_sampleWord_eq (c : Word) : (sampleWord c).toInt = (BitVec.ofInt 16 (toInt (trunc c))).toInt :=
  BitVec.toInt_signExtend_of_le (by decide)

theorem toInt_sampleWord_bounds (c : Word) : -32768 ≤ (sampleWord c).toInt ∧ (sampleWord c).toInt ≤ 32767 := by
  rw [toInt_sampleWord_eq]
  have h1 := BitVec.le_toInt (BitVec.ofInt 16 (toInt (trunc c)))
  have h2 := BitVec.toInt_lt (x := BitVec.ofInt 16 (toInt (trunc c)))
  omega

/-- In the int16 range that word is the value, toward zero. -/
theorem toInt_sampleWord {c : Word} (hc : isFinite c = true) (h1 : -32768 ≤ value c) (h2 : value c ≤ 32767) :
    (sampleWord c).toInt = toInt c := by
  obtain ⟨h3, h4⟩ := toInt_bounds (a := -32768) (b := 32767) (by exact_mod_cast h1) (by exact_mod_cast h2)
  rw [toInt_sampleWord_eq, toInt_trunc hc]
  exact BitVec.toInt_ofInt_eq_self (by decide) h3 (by omega)

theorem oclamp_writeSample (s : State) (r : Reg) (v : Word) :
    (s.writeSample r v).oclamp = (s.oclamp || !F32.eq (sampleClamp v) v) := by
  obtain ⟨-, -, hstatus, -⟩ := writeSample_spec s r v
  rw [State.oclamp, State.oclamp, hstatus, BitVec.getLsbD_or]
  cases !F32.eq (sampleClamp v) v <;> rfl

/-- CVTFI's end on an integer of the int16 range: that integer, and no flag. -/
theorem writeSample_of_value_eq {v : Word} {n : ℤ} (hval : value v = n) (h1 : -32768 ≤ n) (h2 : n ≤ 32767) (s : State)
    (r : Reg) : ((s.writeSample r v).reg r).toInt = n ∧ (s.writeSample r v).status = s.status := by
  have h1' : -32768 ≤ value v := by rw [hval]; exact_mod_cast h1
  have h2' : value v ≤ 32767 := by rw [hval]; exact_mod_cast h2
  have hfin : isFinite v = true :=
    isFinite_iff_abs_value.2 ((abs_le.2 ⟨h1', h2'.trans (by norm_num)⟩).trans (by norm_num : (32768 : ℚ) ≤ _))
  have heq := (eq_sampleClamp_iff (isNaN_of_isFinite hfin)).2 ⟨h1', h2'⟩
  have hclamp : sampleClamp v = v := by
    refine clamp_of_inRange ?_ ?_
    · rwa [le_iff_value (by decide) (isNaN_of_isFinite hfin), value_sampleMin]
    · rwa [le_iff_value (isNaN_of_isFinite hfin) (by decide), value_scale32767]
  obtain ⟨⟨hreg, -⟩, -⟩ := writeSample_spec s r v
  refine ⟨?_, by simp [heq]⟩
  rw [hreg, hclamp, toInt_sampleWord hfin h1' h2', toInt_eq, hval, Int.ceil_intCast, Int.floor_intCast, ite_self]

/-! ## CVTFI as a command -/

theorem exec_cvtfiSym_of_isNaN {s : State} {ra : Reg} (h : isNaN (s.freg ra) = true) (rd : Reg) :
    exec (.cvtfiSym rd ra) s = .next (s.result [s.freg ra] rd 0) := if_pos h

theorem exec_cvtfiAsym_of_isNaN {s : State} {ra : Reg} (h : isNaN (s.freg ra) = true) (rd : Reg) :
    exec (.cvtfiAsym rd ra) s = .next (s.result [s.freg ra] rd 0) := if_pos h

theorem exec_cvtfiSym_of_value {s : State} {ra : Reg} (h : isNaN (s.freg ra) = false) (rd : Reg) :
    exec (.cvtfiSym rd ra) s = .next (s.writeSample rd (mul (s.freg ra) scale32768)) :=
  if_neg (Bool.eq_false_iff.1 h)

/-- The scaled value of CVTFI.ASYM (R176). -/
def asymScaled (x : Word) : Word := if le zero x then mul x scale32767 else mul x scale32768

theorem exec_cvtfiAsym_of_value {s : State} {ra : Reg} (h : isNaN (s.freg ra) = false) (rd : Reg) :
    exec (.cvtfiAsym rd ra) s = .next (s.writeSample rd (asymScaled (s.freg ra))) := by
  rw [asymScaled, ← apply_ite (mul (s.freg ra))]
  exact if_neg (Bool.eq_false_iff.1 h)

/-- Every result of CVTFI is an int16. -/
theorem cvtfi_bounds {s t : State} {rd ra : Reg}
    (h : exec (.cvtfiSym rd ra) s = .next t ∨ exec (.cvtfiAsym rd ra) s = .next t) :
    -32768 ≤ (t.reg rd).toInt ∧ (t.reg rd).toInt ≤ 32767 := by
  cases hnan : isNaN (s.freg ra)
  · rw [exec_cvtfiSym_of_value hnan, exec_cvtfiAsym_of_value hnan] at h
    have hword (v : Word) : (s.writeSample rd v).reg rd = sampleWord (sampleClamp v) := by
      obtain ⟨⟨hreg, -⟩, -⟩ := writeSample_spec s rd v
      exact hreg
    rcases h with h | h
    · cases h; rw [hword]; exact toInt_sampleWord_bounds _
    · cases h; rw [hword]; exact toInt_sampleWord_bounds _
  · rw [exec_cvtfiSym_of_isNaN hnan, exec_cvtfiAsym_of_isNaN hnan, or_self] at h
    cases h
    obtain ⟨⟨hreg, -⟩, -⟩ := result_spec s [s.freg ra] rd 0
    rw [hreg]
    decide

/-! ## Scaling by 32768 (R173, R175) -/

/-- Scaling a finite word by 32768 is exact, but far outside the int16 range, where it may overflow. -/
theorem value_mul_scale32768 {x : Word} (hx : isFinite x = true) :
    value (mul x scale32768) = value x * 32768 ∨
      (2 ^ 16 ≤ value x * 32768 ∧ 2 ^ 16 ≤ value (mul x scale32768)) ∨
      (value x * 32768 ≤ -2 ^ 16 ∧ value (mul x scale32768) ≤ -2 ^ 16) := by
  have hnear := nearestEven_mul hx (y := scale32768) (by decide)
  rw [value_scale32768] at hnear
  have hpow : value (ofInt (2 ^ 16)) = 2 ^ 16 := by rw [value_ofInt (by decide)]; norm_num
  have hpow' : value (ofInt (-2 ^ 16)) = -2 ^ 16 := by rw [value_ofInt (by decide)]; norm_num
  rcases lt_or_ge (2 ^ 16) (value x * 32768) with hhi | hhi
  · refine .inr (.inl ⟨hhi.le, ?_⟩)
    rw [← hpow] at hhi ⊢
    exact hnear.le_value (isFinite_ofInt (by decide)) hhi.le
  rcases lt_or_ge (value x * 32768) (-2 ^ 16) with hlo | hlo
  · refine .inr (.inr ⟨hlo.le, ?_⟩)
    rw [← hpow'] at hlo ⊢
    exact hnear.value_le (isFinite_ofInt (by decide)) hlo.le
  · left
    have habs : |value x| ≤ |value two| := by
      rw [value_two, abs_le]
      constructor <;> norm_num <;> linarith
    rw [abs_value, abs_value, div_le_div_iff_of_pos_right (by positivity), Nat.cast_le, units, units,
      magUnits_strictMono.le_iff_le] at habs
    have hbits : magBits two + 15 * 2 ^ 23 < infBits := by decide
    obtain ⟨v, hv, hval⟩ := exists_value_eq_mul_two_pow (x := x) (j := 15) (by norm_num) (by omega)
    exact hnear.value_eq hv (by rw [hval]; norm_num)

/-- Clamped to the int16 range, the scaled value is the exact one. -/
theorem value_sampleClamp_mul_scale32768 {x : Word} (hx : isFinite x = true) :
    value (sampleClamp (mul x scale32768)) = max (-32768) (min 32767 (value x * 32768)) ∧
      (F32.eq (sampleClamp (mul x scale32768)) (mul x scale32768) = true ↔
        -32768 ≤ value x * 32768 ∧ value x * 32768 ≤ 32767) := by
  have hv := (nearestEven_mul hx (y := scale32768) (by decide)).isNaN_eq_false
  rw [value_sampleClamp hv, eq_sampleClamp_iff hv]
  rcases value_mul_scale32768 hx with h | ⟨h1, h2⟩ | ⟨h1, h2⟩
  · rw [h]
    exact ⟨rfl, Iff.rfl⟩
  · rw [min_eq_left (by linarith), min_eq_left (by linarith)]
    exact ⟨rfl, ⟨fun h => by linarith, fun h => by linarith⟩⟩
  · rw [max_eq_left ((min_le_right ..).trans (by linarith)), max_eq_left ((min_le_right ..).trans (by linarith))]
    exact ⟨rfl, ⟨fun h => by linarith, fun h => by linarith⟩⟩

/-! ## CVTIF: the quotient (R173, R174) -/

theorem sample_bounds (s : State) (r : Reg) : -32768 ≤ s.sample r ∧ s.sample r ≤ 32767 := by
  have h1 := BitVec.le_toInt ((s.reg r).extractLsb' 0 16)
  have h2 := BitVec.toInt_lt (x := (s.reg r).extractLsb' 0 16)
  unfold State.sample
  omega

/-- The scale of CVTIF.ASYM (R174). -/
def asymScale (n : ℤ) : Word := if 0 ≤ n then scale32767 else scale32768

theorem asymScale_of_nonneg {n : ℤ} (h : 0 ≤ n) : asymScale n = scale32767 := if_pos h

theorem asymScale_of_neg {n : ℤ} (h : n < 0) : asymScale n = scale32768 := if_neg (not_le.2 h)

theorem asymScale_cases (n : ℤ) : asymScale n = scale32768 ∨ asymScale n = scale32767 :=
  (lt_or_ge n 0).imp asymScale_of_neg asymScale_of_nonneg

theorem exec_cvtifSym (s : State) (rd ra : Reg) :
    exec (.cvtifSym rd ra) s = .next (s.writeReg rd (div (ofInt (s.sample ra)) scale32768)) := rfl

theorem exec_cvtifAsym (s : State) (rd ra : Reg) :
    exec (.cvtifAsym rd ra) s = .next (s.writeReg rd (div (ofInt (s.sample ra)) (asymScale (s.sample ra)))) := rfl

section Quotients

variable {n : ℤ} (h1 : -32768 ≤ n) (h2 : n ≤ 32767)
include h1 h2

theorem isFinite_ofInt_sample : isFinite (ofInt n) = true := isFinite_ofInt (by omega)

theorem value_ofInt_sample : value (ofInt n) = n := value_ofInt (by omega)

/-- The quotient by 32768 is exact. -/
theorem value_div_scale32768 : value (div (ofInt n) scale32768) = n / 32768 := by
  have hnear := nearestEven_div (isFinite_ofInt_sample h1 h2) (y := scale32768) (by decide) (by decide)
  rw [value_scale32768, value_ofInt_sample h1 h2] at hnear
  obtain ⟨v, hv, hval⟩ := exists_value_eq_scaled (n := n) (by omega) (k := 134) (by norm_num)
  exact hnear.value_eq hv (by rw [hval, mul_div_assoc, div_eq_mul_inv (n : ℚ)]; norm_num)

theorem nearestEven_div_scale32767 : NearestEven (n / 32767) (div (ofInt n) scale32767) := by
  have hnear := nearestEven_div (isFinite_ofInt_sample h1 h2) (y := scale32767) (by decide) (by decide)
  rwa [value_scale32767, value_ofInt_sample h1 h2] at hnear

/-- A quotient by either scale is a finite word with the sample's sign. -/
theorem div_scale_isFinite {y : Word} (hy : y = scale32768 ∨ y = scale32767) :
    isFinite (div (ofInt n) y) = true ∧ sign (div (ofInt n) y) = decide (n < 0) := by
  have hscale : isFinite y = true ∧ isZero y = false ∧ sign y = false ∧ 1 ≤ value y := by
    rcases hy with rfl | rfl
    · exact ⟨by decide, by decide, by decide, by rw [value_scale32768]; norm_num⟩
    · exact ⟨by decide, by decide, by decide, by rw [value_scale32767]; norm_num⟩
  obtain ⟨hfin, h0, hsign, hone⟩ := hscale
  have hnear := nearestEven_div (isFinite_ofInt_sample h1 h2) hfin h0
  have hn : |(n : ℚ)| ≤ 32768 := abs_le.2 ⟨by exact_mod_cast h1, by exact_mod_cast h2.trans (by norm_num)⟩
  refine ⟨isFinite_of_nearestEven hnear ?_, ?_⟩
  · rw [value_ofInt_sample h1 h2, abs_div, abs_of_pos (a := value y) (by linarith)]
    exact (div_le_self (abs_nonneg _) hone).trans (hn.trans (by norm_num))
  · rw [sign_div hnear.isNaN_eq_false, hsign, sign_ofInt, Bool.bne_false]

end Quotients

/-! ## From a sample to binary32 and back (R173 to R176) -/

theorem mul_scale32768_div {n : ℤ} (h1 : -32768 ≤ n) (h2 : n ≤ 32767) :
    value (mul (div (ofInt n) scale32768) scale32768) = n := by
  obtain ⟨hfin, -⟩ := div_scale_isFinite h1 h2 (.inl rfl)
  have hexact : value (div (ofInt n) scale32768) * 32768 = n := by
    rw [value_div_scale32768 h1 h2, div_mul_cancel₀ _ (by norm_num)]
  have h1' : (-32768 : ℚ) ≤ n := by exact_mod_cast h1
  have h2' : (n : ℚ) ≤ 32767 := by exact_mod_cast h2
  rw [← hexact] at h1' h2'
  rcases value_mul_scale32768 hfin with h | ⟨h, -⟩ | ⟨h, -⟩
  · rw [h, hexact]
  · linarith
  · linarith

theorem two_pow_add_div (e : ℕ) {j : ℕ} (hj : j ≤ 149) : (2 : ℚ) ^ (e + j) / 2 ^ 149 = 2 ^ e / 2 ^ (149 - j) := by
  rw [div_eq_div_iff (by positivity) (by positivity), ← pow_add, ← pow_add]
  congr 1
  omega

/-- A power of two, whose lower neighbour is only half a step away. -/
theorem mul_scale32767_div_two_pow :
    ∀ e : Fin 15, mul (div (ofInt (2 ^ e.val)) scale32767) scale32767 = ofInt (2 ^ e.val) := by decide +kernel

section BetweenPowers

variable {n e : ℕ} (he : e < 15) (h1 : 2 ^ e < n) (h2 : n < 2 ^ (e + 1))
include he h1 h2

theorem between_powers : n ≤ 32767 ∧ 1 ≤ (2 : ℚ) ^ e ∧ (2 : ℚ) ^ e ≤ 16384 ∧
    (2 : ℚ) ^ e + 1 ≤ n ∧ (n : ℚ) + 1 ≤ 2 ^ e * 2 := by
  have hpow : (2 : ℕ) ^ e ≤ 2 ^ 14 := Nat.pow_le_pow_right (by decide) (by omega)
  refine ⟨by rw [pow_succ] at h2; omega, one_le_pow₀ (by norm_num), by exact_mod_cast hpow, by exact_mod_cast h1, ?_⟩
  rw [← pow_succ]
  exact_mod_cast h2

/-- The quotient by 32767 lies below `2 ^ (e - 14)`, so its last place is at most `2 ^ (e - 38)`. -/
theorem div_scale32767_error : |(n : ℚ) / 32767 - value (div (ofInt n) scale32767)| ≤ 2 ^ e / 2 ^ 39 := by
  obtain ⟨hn, hP, hP', -, hhi⟩ := between_powers he h1 h2
  obtain ⟨hfin, -⟩ := div_scale_isFinite (n := n) (by omega) (by omega) (.inr rfl)
  have hnear := nearestEven_div_scale32767 (n := n) (by omega) (by omega)
  rw [Int.cast_natCast] at hnear
  refine (hnear.abs_sub_le_half_step hfin (k := e + 111) (by omega) ?_).trans_eq ?_
  · rw [abs_of_nonneg (by positivity), two_pow_add_div e (by norm_num), div_le_iff₀ (by norm_num)]
    norm_num
    linarith
  · rw [two_pow_add_div e (by norm_num), div_div]
    norm_num

/-- The error of the quotient moves the product by less than half a place of the sample. -/
theorem mul_scale32767_div_between : value (mul (div (ofInt n) scale32767) scale32767) = n := by
  obtain ⟨hn, hP, hP', hlo, hhi⟩ := between_powers he h1 h2
  obtain ⟨hyfin, -⟩ := div_scale_isFinite (n := n) (by omega) (by omega) (.inr rfl)
  have herr := div_scale32767_error he h1 h2
  have hw := nearestEven_mul hyfin (y := scale32767) (by decide)
  rw [value_scale32767] at hw
  generalize div (ofInt n) scale32767 = y at *
  have hnval : value (ofInt (n : ℤ)) = n := by rw [value_ofInt (by omega)]; rfl
  have hclose : |value y * 32767 - n| < 2 ^ e / 2 ^ 24 := by
    rw [show value y * 32767 - n = -(n / 32767 - value y) * 32767 by ring, abs_mul, abs_neg]
    norm_num at herr ⊢
    linarith
  obtain ⟨hclose1, hclose2⟩ := abs_lt.1 hclose
  norm_num at hclose1 hclose2
  have hwlo : 2 ^ e ≤ value (mul y scale32767) := by
    have hpowval : value (ofInt (2 ^ e : ℕ)) = 2 ^ e := by rw [value_ofInt (by omega)]; push_cast; rfl
    rw [← hpowval]
    refine hw.le_value (isFinite_ofInt (by omega)) ?_
    rw [hpowval]
    linarith
  have hwfin := isFinite_of_nearestEven hw (abs_le.2 ⟨by linarith, by linarith⟩)
  have hstep : (2 : ℚ) ^ 23 * (2 ^ (e + 126) / 2 ^ 149) = 2 ^ e := by
    rw [two_pow_add_div e (by norm_num)]; ring
  rw [← hnval] at hclose ⊢
  refine hw.value_eq_of_abs_sub_lt hwfin (isFinite_ofInt (by omega)) (k := e + 126) ?_ ?_ (hclose.trans_eq ?_)
  · rw [hstep, abs_of_nonneg (by linarith)]
    exact hwlo
  · rw [hstep, hnval, abs_of_nonneg (by positivity)]
    linarith
  · linarith

end BetweenPowers

theorem mul_scale32767_div {n : ℤ} (h1 : 0 ≤ n) (h2 : n ≤ 32767) :
    value (mul (div (ofInt n) scale32767) scale32767) = n := by
  lift n to ℕ using h1
  rcases Nat.eq_zero_or_pos n with rfl | hpos
  · exact isZero_iff_value.1 (by decide)
  · have hlo : 2 ^ Nat.log2 n ≤ n := Nat.log2_self_le hpos.ne'
    have hlog : Nat.log2 n < 15 := (Nat.log2_lt hpos.ne').2 (by omega)
    rcases hlo.eq_or_lt with heq | hlt
    · have hpow : (n : ℤ) = 2 ^ Nat.log2 n := by rw [← Nat.cast_ofNat, ← Nat.cast_pow, heq]
      rw [hpow, mul_scale32767_div_two_pow ⟨_, hlog⟩, ← hpow, value_ofInt (by omega)]
    · exact mul_scale32767_div_between hlog hlt Nat.lt_log2_self

/-- The sample's quotient comes back through CVTFI.ASYM's scaling: exactly below zero, by rounding from zero on. -/
theorem asymScaled_div {n : ℤ} (h1 : -32768 ≤ n) (h2 : n ≤ 32767) :
    value (asymScaled (div (ofInt n) (asymScale n))) = n := by
  obtain ⟨hfin, hsign⟩ := div_scale_isFinite h1 h2 (asymScale_cases n)
  have hle := le_iff_value isNaN_zero (isNaN_of_isFinite hfin)
  rw [value_zero] at hle
  rcases lt_or_ge n 0 with hn | hn
  · rw [asymScale_of_neg hn] at hle ⊢
    have hneg : (n : ℚ) < 0 := by exact_mod_cast hn
    rw [asymScaled, if_neg (by rw [hle, value_div_scale32768 h1 h2]; linarith)]
    exact mul_scale32768_div h1 h2
  · rw [decide_eq_false (not_lt.2 hn)] at hsign
    rw [asymScaled, if_pos (hle.2 (value_nonneg_of_sign_false hsign)), asymScale_of_nonneg hn]
    exact mul_scale32767_div hn h2

theorem freg_writeReg_same (s : State) (r : Reg) (v : Word) : (s.writeReg r v).freg r = canon v := by
  rw [State.freg, reg_writeReg_same]

theorem runAll_pair {i j : Instr} {s t u : State} (h1 : exec i s = .next t) (h2 : exec j t = .next u) :
    runAll [i, j] s = .next u := by
  rw [runAll, h1]
  dsimp only
  rw [runAll, h2]
  rfl

/-- A command that writes the quotient `y`, then one that scales it back to `v`, the sample again. -/
theorem runAll_roundTrip {i j : Instr} {s : State} {rd : Reg} (re : Reg) {y v : Word} {n : ℤ}
    (hi : exec i s = .next (s.writeReg rd y)) (hy : isNaN y = false)
    (hj : ∀ u : State, u.freg rd = y → exec j u = .next (u.writeSample re v)) (hv : value v = n)
    (h1 : -32768 ≤ n) (h2 : n ≤ 32767) :
    ∃ t, runAll [i, j] s = .next t ∧ (t.reg re).toInt = n ∧ t.status = s.status := by
  have hfreg : (s.writeReg rd y).freg rd = y := by rw [freg_writeReg_same, canon_of_not_isNaN hy]
  exact ⟨_, runAll_pair hi (hj _ hfreg), writeSample_of_value_eq hv h1 h2 ..⟩

theorem runAll_cvtifSym_cvtfiSym (s : State) (rd re ra : Reg) :
    ∃ t, runAll [.cvtifSym rd ra, .cvtfiSym re rd] s = .next t ∧
      (t.reg re).toInt = s.sample ra ∧ t.status = s.status := by
  obtain ⟨h1, h2⟩ := sample_bounds s ra
  obtain ⟨hfin, -⟩ := div_scale_isFinite h1 h2 (.inl rfl)
  have hnan := isNaN_of_isFinite hfin
  refine runAll_roundTrip re (exec_cvtifSym ..) hnan (fun u hu => ?_) (mul_scale32768_div h1 h2) h1 h2
  rw [exec_cvtfiSym_of_value (by rw [hu]; exact hnan), hu]

theorem runAll_cvtifAsym_cvtfiAsym (s : State) (rd re ra : Reg) :
    ∃ t, runAll [.cvtifAsym rd ra, .cvtfiAsym re rd] s = .next t ∧
      (t.reg re).toInt = s.sample ra ∧ t.status = s.status := by
  obtain ⟨h1, h2⟩ := sample_bounds s ra
  obtain ⟨hfin, -⟩ := div_scale_isFinite h1 h2 (asymScale_cases _)
  have hnan := isNaN_of_isFinite hfin
  refine runAll_roundTrip re (exec_cvtifAsym ..) hnan (fun u hu => ?_) (asymScaled_div h1 h2) h1 h2
  rw [exec_cvtfiAsym_of_value (by rw [hu]; exact hnan), hu]

/-! ## The statements -/

/-- Settles O30: each command is one register write. -/
theorem wordMovesResults : Obligations.WordMovesResults := by
  intro s rd ra imm
  have hhigh : imm ++ (0 : BitVec 16) = BitVec.ofNat 32 (imm.toNat * 65536) := by
    apply BitVec.eq_of_toNat_eq
    have := imm.isLt
    rw [BitVec.toNat_append, BitVec.toNat_ofNat, Nat.mod_eq_of_lt (by omega)]
    simp [Nat.shiftLeft_eq]
  have hlow : imm.zeroExtend 32 = BitVec.ofNat 32 imm.toNat := (BitVec.ofNat_toNat ..).symm
  refine ⟨⟨_, rfl, ?_⟩, ⟨_, rfl, ?_⟩, ⟨_, rfl, writeReg_spec ..⟩⟩
  · rw [← hhigh]; exact writeReg_spec ..
  · rw [← hlow]; exact writeReg_spec ..

/-- Settles O31: each command is one `State.result` of its operation. -/
theorem arithmeticResults : Obligations.ArithmeticResults :=
  ⟨fun _ _ => ⟨canon_of_not_isNaN, fun h => if_pos h⟩,
    fun _ _ _ _ _ => ⟨⟨_, rfl, result_spec ..⟩, ⟨_, rfl, result_spec ..⟩, ⟨_, rfl, result_spec ..⟩,
      ⟨_, rfl, result_spec ..⟩, ⟨_, rfl, result_spec ..⟩⟩⟩

/-- Settles O37: each command is one `State.result` of its function. -/
theorem saturatorAndTrigResults : Obligations.SaturatorAndTrigResults := fun _ _ _ _ =>
  ⟨⟨_, rfl, result_spec ..⟩, ⟨_, rfl, result_spec ..⟩, ⟨_, rfl, result_spec ..⟩, ⟨_, rfl, result_spec ..⟩⟩

/-- Settles O39: the quotient by 32768 is exact, the other one is a single division. -/
theorem cvtifResults : Obligations.CvtifResults := by
  intro s rd ra
  obtain ⟨h1, h2⟩ := sample_bounds s ra
  obtain ⟨hfin, hsign⟩ := div_scale_isFinite h1 h2 (.inl rfl)
  have hquot := value_div_scale32768 h1 h2
  obtain ⟨hfin', hsign'⟩ := div_scale_isFinite h1 h2 (asymScale_cases _)
  refine ⟨⟨_, _, exec_cvtifSym .., writeReg_spec .., hfin, hquot, hsign⟩,
    ⟨_, _, exec_cvtifAsym .., writeReg_spec .., hfin', hsign', fun hn => ?_, fun hn => ?_⟩⟩
  · rw [asymScale_of_nonneg (n := s.sample ra) hn]
    exact nearestEven_div_scale32767 h1 h2
  · rw [asymScale_of_neg (n := s.sample ra) hn]
    exact hquot

/-- Settles O40: a NaN takes the result 0, every other value the common end of the conversions. -/
theorem cvtfiResults : Obligations.CvtfiResults := by
  intro s rd ra
  refine ⟨fun h => ?nan, fun h => ⟨⟨_, exec_cvtfiSym_of_value h rd, writeSample_spec ..⟩,
    ⟨_, exec_cvtfiAsym_of_value h rd, writeSample_spec ..⟩⟩⟩
  have hresult : wroteOnly [] rd 0 0x00000002 s (s.result [s.freg ra] rd 0) := by
    have hbits : nvBits [s.freg ra] = 0x00000002 := by simp [nvBits, h]
    rw [← hbits]
    exact result_spec ..
  exact ⟨⟨_, exec_cvtfiSym_of_isNaN h rd, hresult⟩, ⟨_, exec_cvtfiAsym_of_isNaN h rd, hresult⟩⟩

/-- Settles O41: scaling by 32768 is exact where it matters, and the clamp and the truncation act on exact values. -/
theorem cvtfiSymIsExact : Obligations.CvtfiSymIsExact := by
  intro s t rd ra hx hexec
  rw [exec_cvtfiSym_of_value (isNaN_of_isFinite hx)] at hexec
  cases hexec
  have hnan := (nearestEven_mul hx (y := scale32768) (by decide)).isNaN_eq_false
  obtain ⟨hval, heq⟩ := value_sampleClamp_mul_scale32768 hx
  obtain ⟨⟨hreg, -⟩, -⟩ := writeSample_spec s rd (mul (s.freg ra) scale32768)
  constructor
  · rw [hreg, toInt_sampleWord (isFinite_sampleClamp hnan), toInt_of_value_eq_clamp hval]
    · rw [hval]; exact le_max_left ..
    · rw [hval]; exact max_le (by norm_num) (min_le_left ..)
  · rw [oclamp_writeSample, Bool.or_eq_true, Bool.not_eq_true', ← Bool.not_eq_true, heq, not_and_or, not_le, not_le]

/-- Settles O42: CVTFI ends in an int16, and either quotient scales back to the sample. -/
theorem samplesSurviveTheRoundTrip : Obligations.SamplesSurviveTheRoundTrip :=
  ⟨fun _ _ _ _ => cvtfi_bounds,
    fun s rd re ra => ⟨runAll_cvtifSym_cvtfiSym s rd re ra, runAll_cvtifAsym_cvtfiAsym s rd re ra⟩⟩

end Sys2Proof.Machine

/-! SUPPORT. The step commands on a bank that exists (42_primitives.md to 46_granular.md): the next state of each, its
new bank and its frame, and the statements about their results. -/

namespace Sys2Proof.Machine

open F32

/-! ## The common end of the step commands -/

/-- A change of one bank, then a result: the register, STATUS and that bank are all that changes. -/
theorem OneBank.result_spec {u : UnitName} {n : Nat} {s s' : State} (h : OneBank u n s s') (hbus : busKept s s')
    (nv : List Word) (rd : Reg) (y : Word) : wroteOnly [u] rd y (nvBits nv) s (s'.result nv rd y) := by
  obtain ⟨hholds, hregs, hstatus, -, -⟩ := Machine.result_spec s' nv rd y
  refine ⟨hholds, fun r hr => ?_, by rw [hstatus, h.status], ?_, by simpa [busKept] using hbus⟩
  · obtain ⟨hreg, hwritten⟩ := hregs r hr
    exact ⟨hreg.trans (reg_congr h.d r), hwritten.trans (isWritten_congr h.written r)⟩
  · simpa only [banksKept, result_fs, result_bq, result_lp, result_hp, result_sc, result_dl, result_dc, result_li,
      result_ds, result_xo, result_md, result_nco, result_zc, result_env, result_gp] using h.units

/-- What a step command leaves that puts `v'` in the place of its bank `v` and then ends in a result. -/
theorem exists_next_of_result {α : Type} (bank : State → List α) {i : Instr} {u : UnitName} {n : Nat} {s s' : State}
    {v v' : α} {nv : List Word} {rd : Reg} {y : Word} (hexec : exec i s = .next (s'.result nv rd y))
    (h : OneBank u n s s') (hbus : busKept s s') (hbank : bank (s'.result nv rd y) = (bank s).set n v')
    (hv : (bank s)[n]? = some v) :
    ∃ t, exec i s = .next t ∧ wroteOnly [u] rd y (nvBits nv) s t ∧ replaced (bank s) n v' (bank t) :=
  ⟨_, hexec, h.result_spec hbus nv rd y, hbank ▸ replaced_set hv v'⟩

/-! ## The next state of each step command -/

section Steps

variable {s : State} {inst : InstNo}

theorem exec_lpStep {u : Lp} (h : s.lp[inst.toNat]? = some u) (rd ra : Reg) :
    let y := onePole u.y u.a (s.freg ra)
    exec (.lpStep rd ra inst) s = .next ((s.setLp inst { u with y := y }).result [s.freg ra, y] rd y) := by
  rw [exec, execLpStep, h]

theorem exec_hpStep {u : Hp} (h : s.hp[inst.toNat]? = some u) (rd ra : Reg) :
    let lp := onePole u.lp u.a (s.freg ra)
    let y := sub (s.freg ra) lp
    exec (.hpStep rd ra inst) s = .next ((s.setHp inst { u with lp := lp }).result [s.freg ra, lp, y] rd y) := by
  rw [exec, execHpStep, h]

theorem exec_dcStep {u : Dc} (h : s.dc[inst.toNat]? = some u) (rd ra : Reg) :
    let x := s.freg ra
    let y := add (sub x u.x1) (mul u.r u.y1)
    exec (.dcStep rd ra inst) s = .next ((s.setDc inst { u with x1 := x, y1 := y }).result [x, y] rd y) := by
  rw [exec, execDcStep, h]

theorem exec_liStep {u : Li} (h : s.li[inst.toNat]? = some u) (rd ra rb : Reg) :
    let x := s.freg ra
    let y := lerp u.prev x (s.freg rb)
    exec (.liStep rd ra rb inst) s = .next ((s.setLi inst { u with prev := x }).result [x, s.freg rb, y] rd y) := by
  rw [exec, execLiStep, h]

theorem exec_scStep {u : Sc} (h : s.sc[inst.toNat]? = some u) (rd ra : Reg) :
    let x := s.freg ra
    let y := lerp x (softClip (mul x u.drive)) u.mix
    exec (.scStep rd ra inst) s = .next (s.result [x, y] rd y) := by
  rw [exec, execScStep, h]

theorem exec_bqStep {u : Bq} (h : s.bq[inst.toNat]? = some u) (rd ra : Reg) :
    let x := s.freg ra
    let y := biquad u x
    exec (.bqStep rd ra inst) s =
      .next ((s.setBq inst { u with x1 := x, x2 := u.x1, y1 := y, y2 := u.y1 }).result [x, y] rd y) := by
  rw [exec, execBqStep, h]

theorem exec_dsStep {u : Ds} (h : s.ds[inst.toNat]? = some u) (rd ra : Reg) :
    let x := s.freg ra
    let v := atanShaper (mul u.k (mul u.gain x))
    let lp := onePole u.lp u.a v
    let y := sub v lp
    exec (.dsStep rd ra inst) s = .next ((s.setDs inst { u with lp := lp }).result [x, lp, y] rd y) := by
  rw [exec, execDsStep, h]

/-- The pair of R105 check 6 is legal where `rd` is even. -/
theorem exec_xoStep {u : Xo} (h : s.xo[inst.toNat]? = some u) {rd : Reg} (hrd : rd.toNat % 2 = 0) (ra : Reg) :
    let x := s.freg ra
    let lp := onePole u.lp u.a x
    exec (.xoStep rd ra inst) s =
      .next (((s.setXo inst { u with lp := lp }).result [x, lp, sub x lp] rd lp).writeReg (rd + 1) (sub x lp)) := by
  rw [exec, execXoStep, h]
  exact if_neg (by omega)

theorem exec_mdStep {u : Md} (h : s.md[inst.toNat]? = some u) {line : Dl} (hline : s.dl[mdSelect u]? = some line)
    (rd ra : Reg) :
    let phi := s.freg ra
    let y := mul (amGain u phi) (fracRead line.ring (dopplerDelay u phi))
    exec (.mdStep rd ra inst) s = .next (s.result [phi, y] rd y) := by
  rw [exec, execMdStep, h]
  dsimp only
  rw [hline]

theorem exec_ncoStep {u : Nco} (h : s.nco[inst.toNat]? = some u) (rd ra : Reg) :
    let f := onePole u.f u.c (s.freg ra)
    let ph := fract (add u.ph (div f s.fs))
    exec (.ncoStep rd ra inst) s =
      .next ((s.setNco inst { u with f := f, ph := ph }).result [s.freg ra, f, ph] rd ph) := by
  rw [exec, execNcoStep, h]

theorem exec_envStep {u : Env} (h : s.env[inst.toNat]? = some u) (rd ra : Reg) :
    let e := envelope u (s.freg ra)
    exec (.envStep rd ra inst) s = .next ((s.setEnv inst { u with e := e }).result [s.freg ra, e] rd e) := by
  rw [exec, execEnvStep, h]

theorem exec_zcStep {u : Zc} (h : s.zc[inst.toNat]? = some u) (rd ra rb : Reg) :
    let u' := zcStep u s.fs (s.freg ra) (s.freg rb)
    exec (.zcStep rd ra rb inst) s =
      .next ((s.setZc inst u').result [s.freg ra, s.freg rb, u'.f] rd u'.f) := by
  rw [exec, execZcStep, h]

/-- The bank GP.STEP leaves (R301): the input stored and the phases moved. -/
def gpNext (u : Gp) (x : Word) : Gp :=
  { u with
    ring := bufWrite u.ring x, p0 := advance u u.p0, p1 := advance u u.p1, p2 := advance u u.p2,
    p3 := advance u u.p3 }

theorem exec_gpStep {u : Gp} (h : s.gp[inst.toNat]? = some u) (rd ra : Reg) :
    let x := s.freg ra
    let y := grainMix u (bufWrite u.ring x)
    exec (.gpStep rd ra inst) s = .next ((s.setGp inst (gpNext u x)).result [x, y] rd y) := by
  rw [exec, execGpStep, h]
  rfl

end Steps

/-! ## The crossover's register pair (R242) -/

theorem ne_add_one (r : Reg) : r ≠ r + 1 := by bv_omega

/-- A change of one bank, a result in `rd`, then a write of `rd + 1`. -/
theorem OneBank.pair_spec {u : UnitName} {n : Nat} {s s' : State} (h : OneBank u n s s') (hbus : busKept s s')
    (nv : List Word) (rd : Reg) (y z : Word) :
    let t := (s'.result nv rd y).writeReg (rd + 1) z
    holds t rd y ∧ holds t (rd + 1) z ∧ regsKept [rd, rd + 1] s t ∧ t.status = s.status ||| nvBits nv ∧
      banksKept [u] s t ∧ busKept s t := by
  obtain ⟨⟨hreg, hwritten⟩, hregs, hrest⟩ := h.result_spec hbus nv rd y
  refine ⟨?_, ?_, fun r hr => ?_, hrest⟩
  · rw [holds, reg_writeReg_other _ (ne_add_one rd), isWritten_writeReg_other _ (ne_add_one rd)]
    exact ⟨hreg, hwritten⟩
  · exact ⟨reg_writeReg_same .., isWritten_writeReg_same ..⟩
  · obtain ⟨hne, hne'⟩ : r ≠ rd ∧ r ≠ rd + 1 := by simpa using hr
    rw [reg_writeReg_other _ hne', isWritten_writeReg_other _ hne']
    exact hregs r (by simpa using hne)

/-! ## The delay line MD.STEP reads -/

/-- R40, R42: a legal dlsel is the number of a delay line. -/
theorem mdSelect_lt {s : State} (hs : ShapeOk s) (hp : ParamsOk s) {i : Nat} {u : Md} (hu : s.md[i]? = some u) :
    mdSelect u < s.dl.length := by
  have hparam : s.param? .md i 4 = some u.dlsel := by rw [State.param?, hu]; rfl
  obtain ⟨-, -, -, -, ⟨hn, hn'⟩, -⟩ := hs
  simp only [State.config, List.length_map] at hn hn'
  have hcount : ((s.dl.length : Int) - 1).natAbs ≤ 2 ^ 24 := by omega
  obtain ⟨hrange, -⟩ := paramOk_of_paramsOk hp hparam rfl
  obtain ⟨-, h0, h1⟩ := (inRange_iff_value isNaN_zero (isNaN_of_isFinite (isFinite_ofInt hcount))).1 hrange
  rw [value_ofInt hcount] at h1
  obtain ⟨hlo, hhi⟩ := toInt_bounds (a := 0) (by simpa using h0) h1
  rw [mdSelect]
  omega

/-! ## The phases of ZC.STEP (R272) -/

/-- R272 phase 1, field by field. -/
theorem zcGate_eq (z : Zc) (env : Word) :
    let on := lt z.thOn env
    let off := !on && lt env z.thOff
    zcGate z env = { z with
      locked := on || (z.locked && !(off && z.hang == 0))
      hang := if on then (toInt z.hangLen).toNat else if off then z.hang - 1 else z.hang } := by
  intro on off
  unfold zcGate
  by_cases hon : lt z.thOn env = true
  · simp [on, hon]
  · by_cases hoff : lt env z.thOff = true
    · obtain hhang | hhang := Nat.eq_zero_or_pos z.hang
      · simp [on, off, hon, hoff, hhang]
      · simp [on, off, hon, hoff, hhang, Nat.ne_of_gt hhang]
    · simp [on, off, hon, hoff]

/-- R272 phase 2. -/
theorem zcCount_eq (z : Zc) : zcCount z = { z with cnt := if z.cnt < cntMax then z.cnt + 1 else z.cnt } := by
  unfold zcCount
  split <;> rfl

/-- R272 phase 3. -/
theorem zcTrigger_eq (z : Zc) (x : Word) :
    zcTrigger z x = { z with pos := zcCross z x || (z.pos && !lt x (neg z.hyst)) } := by
  unfold zcTrigger
  cases hcross : zcCross z x
  · cases hpos : z.pos <;> cases hlow : lt x (neg z.hyst) <;> simp [← hpos]
  · simp

/-- R272 phase 4: the new estimate that a candidate in range gives. -/
def zcTarget (z : Zc) (cand : Word) : Word := zcMove z z.smooth (zcJump z (zcFold z cand))

section Estimate

variable (z : Zc) (cnt hang : Nat) (pos locked : Bool)

/-- A move of the estimate reads neither the gate nor the counter nor the trigger. -/
theorem zcMove_of_sameEstimate (k target : Word) :
    zcMove { z with cnt := cnt, pos := pos, locked := locked, hang := hang } k target = zcMove z k target := rfl

theorem zcTarget_of_sameEstimate (cand : Word) :
    zcTarget { z with cnt := cnt, pos := pos, locked := locked, hang := hang } cand = zcTarget z cand := rfl

end Estimate

theorem zcTrack_eq (z : Zc) (cand : Word) :
    zcTrack z cand = { z with f := if le z.fMin cand && le cand z.fMax then zcTarget z cand else z.f } := by
  unfold zcTrack
  split <;> rfl

/-- R272 phase 4: the counter restarts on a crossing, and only a locked tracker takes the candidate. -/
theorem zcOnCross_eq (z : Zc) (fs : Word) (cross : Bool) :
    let cand := div fs (ofInt z.cnt)
    zcOnCross z fs cross = { z with
      cnt := if cross then 0 else z.cnt
      f := if z.locked && (cross && le z.fMin cand && le cand z.fMax) then zcTarget z cand else z.f } := by
  intro cand
  cases cross
  · simp [zcOnCross]
  · cases hlocked : z.locked
    · simp [zcOnCross, hlocked]
    · simp only [zcOnCross, hlocked, zcTrack_eq, if_true, Bool.true_and]
      rfl

/-- R272 phase 5. -/
theorem zcDrift_eq (z : Zc) : zcDrift z = { z with f := if z.locked then z.f else zcMove z z.drift z.fIdle } := by
  unfold zcDrift
  split <;> rfl

/-- R272, each register of the tracker after the five phases from what it held before them. -/
theorem zcStep_eq (z : Zc) (fs x env : Word) :
    let gate := zcGate z env
    let cnt := (zcCount z).cnt
    let cross := zcCross z x
    let cand := div fs (ofInt cnt)
    zcStep z fs x env = { gate with
      cnt := if cross then 0 else cnt
      pos := (zcTrigger z x).pos
      f := if gate.locked then if cross && le z.fMin cand && le cand z.fMax then zcTarget z cand else z.f
        else zcMove z z.drift z.fIdle } := by
  intro gate cnt cross cand
  obtain ⟨locked, hang, hgate⟩ : ∃ locked hang, gate = { z with locked := locked, hang := hang } :=
    ⟨_, _, zcGate_eq z env⟩
  have hcount : zcCount gate = { gate with cnt := cnt } := by simp only [cnt, zcCount_eq, hgate]
  have hcross : zcCross (zcCount gate) x = cross := by rw [hcount, hgate]; rfl
  have htrigger : zcTrigger (zcCount gate) x = { gate with cnt := cnt, pos := (zcTrigger z x).pos } := by
    rw [zcTrigger_eq, zcTrigger_eq, hcross, hcount, hgate]
  have hstep : zcStep z fs x env =
      zcDrift (zcOnCross (zcTrigger (zcCount gate) x) fs (zcCross (zcCount gate) x)) := rfl
  rw [hstep, hcross, htrigger, hgate, zcDrift_eq, zcOnCross_eq]
  cases locked
  · simp only [Bool.false_and, Bool.false_eq_true, if_false, zcMove_of_sameEstimate]
  · simp only [Bool.true_and, if_true, zcTarget_of_sameEstimate, cand]

/-! ## The grain loop of GP.STEP (R301) -/

/-- The sums of the loop, unrolled over the four grains. -/
theorem grainMix_eq (u : Gp) (b : Ring) :
    let v := fun p => mul (hann p) (fracRead b (add one (mul p u.glen)))
    let num := add (add (add (add zero (v u.p0)) (v u.p1)) (v u.p2)) (v u.p3)
    let den := add (add (add (add zero (hann u.p0)) (hann u.p1)) (hann u.p2)) (hann u.p3)
    grainMix u b = if lt zero den then div num den else zero := by
  intro v num den
  have hsums : [u.p0, u.p1, u.p2, u.p3].foldl (grain b u.glen) (zero, zero) = (num, den) := by
    simp only [List.foldl_cons, List.foldl_nil, grain, v, num, den]
  rw [grainMix, hsums]

/-! ## The statements -/

/-- Settles O43: each command is one new bank, then a result. -/
theorem firstOrderStepResults : Obligations.FirstOrderStepResults := by
  intro s rd ra rb inst
  refine ⟨fun u hu => ?lp, fun u hu => ?hp, fun u hu => ?dc, fun u hu => ?li⟩
  case lp =>
    exact exists_next_of_result State.lp (exec_lpStep hu rd ra) (oneBank_setLp hu rfl) ⟨rfl, rfl⟩ (result_lp ..) hu
  case hp =>
    exact exists_next_of_result State.hp (exec_hpStep hu rd ra) (oneBank_setHp hu rfl) ⟨rfl, rfl⟩ (result_hp ..) hu
  case dc =>
    exact exists_next_of_result State.dc (exec_dcStep hu rd ra) (oneBank_setDc hu rfl) ⟨rfl, rfl⟩ (result_dc ..) hu
  case li =>
    exact exists_next_of_result State.li (exec_liStep hu rd ra rb) (oneBank_setLi hu rfl) ⟨rfl, rfl⟩ (result_li ..) hu

/-- Settles O44: SC has no state to replace. -/
theorem scAndBqStepResults : Obligations.ScAndBqStepResults := by
  intro s rd ra inst
  refine ⟨fun u hu => ?sc, fun u hu => ?bq⟩
  case sc => exact ⟨_, exec_scStep hu rd ra, result_spec ..⟩
  case bq =>
    exact exists_next_of_result State.bq (exec_bqStep hu rd ra) (oneBank_setBq hu rfl) ⟨rfl, rfl⟩ (result_bq ..) hu

/-- Settles O50: XO's result is followed by the write of the high band. -/
theorem dsAndXoStepResults : Obligations.DsAndXoStepResults := by
  intro s rd ra inst
  refine ⟨fun u hu => ?ds, fun u hu hrd => ?xo⟩
  case ds =>
    exact exists_next_of_result State.ds (exec_dsStep hu rd ra) (oneBank_setDs hu rfl) ⟨rfl, rfl⟩ (result_ds ..) hu
  case xo =>
    intro lp hi
    have hbank : OneBank .xo inst.toNat s (s.setXo inst { u with lp := lp }) := oneBank_setXo hu rfl
    obtain ⟨hlo, hhi, hregs, hstatus, hunits, hbus⟩ := hbank.pair_spec ⟨rfl, rfl⟩ [s.freg ra, lp, hi] rd lp hi
    refine ⟨_, exec_xoStep hu hrd ra, hlo, hhi, hregs, hstatus, hunits, hbus, ?_⟩
    rw [writeReg_xo, result_xo]
    exact replaced_set hu _

/-- Settles O51: the delay line dlsel names is there by R40. -/
theorem mdStepResults : Obligations.MdStepResults :=
  ⟨fun _ rd ra _ _ _ hu hline => ⟨_, exec_mdStep hu hline rd ra, result_spec ..⟩,
    fun _ _ _ hs hp hu => ⟨_, List.getElem?_eq_getElem (mdSelect_lt hs hp hu)⟩⟩

/-- Settles O53: ENV's two cases differ in the coefficient of one one-pole step. -/
theorem ncoAndEnvStepResults : Obligations.NcoAndEnvStepResults := by
  intro s rd ra inst
  refine ⟨fun u hu => ?nco, fun u hu => ?env⟩
  case nco =>
    exact exists_next_of_result State.nco (exec_ncoStep hu rd ra) (oneBank_setNco hu rfl) ⟨rfl, rfl⟩ (result_nco ..) hu
  case env =>
    intro m e
    have he : envelope u (s.freg ra) = e := apply_ite (fun k => onePole u.e k m) (lt u.e m = true) u.att u.rel
    rw [← he]
    exact exists_next_of_result State.env (exec_envStep hu rd ra) (oneBank_setEnv hu rfl) ⟨rfl, rfl⟩ (result_env ..) hu

/-- Settles O56: the new tracker register by register. -/
theorem zcStepResults : Obligations.ZcStepResults := by
  intro s rd ra rb inst u hu
  have h := exists_next_of_result State.zc (exec_zcStep hu rd ra rb) (oneBank_setZc hu (paramZc_zcStep ..))
    ⟨rfl, rfl⟩ (result_zc ..) hu
  rw [zcStep_eq, zcGate_eq, zcTrigger_eq, zcCount_eq] at h
  exact h

/-- Settles O59: the new bank is `gpNext`, its buffer one BufWrite of the input. -/
theorem gpStepResults : Obligations.GpStepResults := by
  intro s rd ra inst u hu hring x b win v num den y adv
  have hmix : grainMix u b = y := by
    rw [grainMix_eq]
    rfl
  obtain ⟨t, hexec, hwrote, hbank⟩ := exists_next_of_result State.gp (exec_gpStep hu rd ra)
    (oneBank_setGp hu (u' := gpNext u x) rfl rfl) ⟨rfl, rfl⟩ (result_gp ..) hu
  rw [hmix] at hwrote
  obtain ⟨-, hwf, -⟩ := hring
  refine ⟨t, gpNext u x, hexec, hwrote, hbank, rfl, bufWrite_cap .., bufWrite_w .., ?_, fun a ha => ?_⟩
  · exact write_read_same hwf ..
  · exact write_read_other hwf ha _

end Sys2Proof.Machine

/-! SUPPORT. The delay-line commands (43_delay_line.md): the next state of each, and why a whole
delay reads a sample back exactly (R223.3). -/

namespace Sys2Proof.Machine.F32

/-! ## Adding a zero (R14) -/

/-- Zero alone is the value of two words. -/
theorem eq_of_value_eq {x y : Word} (h : value x = value y) (h0 : isZero y = false) : x = y := by
  have hkey := value_eq_iff.1 h
  have hmag : magBits y ≠ 0 := fun hm => by rw [isZero_iff.2 hm] at h0; cases h0
  unfold key at hkey
  rcases Bool.eq_or_eq_not (sign x) (sign y) with hs | hs
  · rw [hs] at hkey
    exact word_ext hs (by split at hkey <;> omega)
  · rw [hs] at hkey
    cases hy : sign y
    · simp only [hy, Bool.not_false, if_true, if_false, Bool.false_eq_true] at hkey
      omega
    · simp only [hy, Bool.not_true, if_true, if_false, Bool.false_eq_true] at hkey
      omega

/-- The zero of sign minus is -0.0. -/
theorem eq_negZero_of_isZero {x : Word} (h : isZero x = true) (hs : sign x = true) : x = negZero :=
  word_ext (hs.trans (by decide)) ((isZero_iff.1 h).trans (by decide))

/-- R14: a sum with a zero is exact. -/
theorem value_add_isZero {x z : Word} (hx : isFinite x = true) (hz : isZero z = true) : value (add x z) = value x := by
  have hsum : value x + value z = value x := add_eq_left.2 (isZero_iff_value.1 hz)
  exact ((nearestEven_add hx (isFinite_of_isZero hz)).value_eq hx hsum.symm).trans hsum

/-- R14: a sum with a zero is the other operand's word; only a -0.0 can lose its sign. -/
theorem add_isZero {x z : Word} (hx : isFinite x = true) (hz : isZero z = true) (hne : x ≠ negZero) : add x z = x := by
  cases h0 : isZero x
  case false => exact eq_of_value_eq (value_add_isZero hx hz) h0
  case true =>
    have hs : sign x = false := Bool.eq_false_iff.2 fun hs => hne (eq_negZero_of_isZero h0 hs)
    rw [add_of_isZero h0 hz, if_neg (by simp [hs])]
    exact word_ext hs.symm (isZero_iff.1 h0).symm

/-- A sum that is finite has finite operands: a NaN gives QNAN, an infinity gives itself or QNAN. -/
theorem isFinite_of_isFinite_add {x y : Word} (h : isFinite (add x y) = true) :
    isFinite x = true ∧ isFinite y = true := by
  by_cases hn : isNaN x = true ∨ isNaN y = true
  · rw [add_of_isNaN hn] at h
    cases h
  obtain ⟨hx, hy⟩ := not_or.1 hn
  rw [Bool.not_eq_true] at hx hy
  rcases isFinite_or_isInf hx with hfx | hix
  · refine ⟨hfx, (isFinite_or_isInf hy).resolve_right fun hiy => ?_⟩
    rw [add_of_isInf_right hfx hiy] at h
    simp [isInf_of_isFinite h] at hiy
  · rw [add_of_isInf_left hix hy] at h
    split at h
    · cases h
    · simp [isInf_of_isFinite h] at hix

theorem isFinite_of_isFinite_sub {x y : Word} (h : isFinite (sub x y) = true) :
    isFinite x = true ∧ isFinite y = true := by
  obtain ⟨hx, hneg⟩ := isFinite_of_isFinite_add h
  have hy : isNaN y = false := by rw [← isNaN_neg, isNaN_of_isFinite hneg]
  exact ⟨hx, isFinite_iff.2 (magBits_neg hy ▸ isFinite_iff.1 hneg)⟩

/-! ## lerp32 at t = 0 (R18, log 22) -/

/-- R18: with `t = 0` the first operand, wherever the difference is finite; only a -0.0 can lose its sign. -/
theorem lerp_zero {a b : Word} (h : isFinite (sub b a) = true) :
    eq (lerp a b zero) a = true ∧ (a ≠ negZero → lerp a b zero = a) := by
  obtain ⟨-, ha⟩ := isFinite_of_isFinite_sub h
  have hprod : isZero (mul zero (sub b a)) = true := isZero_mul (by decide) h (.inl (by decide))
  have hsum := nearestEven_add ha (isFinite_of_isZero hprod)
  exact ⟨(eq_iff_value hsum.isNaN_eq_false (isNaN_of_isFinite ha)).2 (value_add_isZero ha hprod), add_isZero ha hprod⟩

end Sys2Proof.Machine.F32

namespace Sys2Proof.Machine

open F32

/-! ## Whole delays (R222, R223.3) -/

/-- R84: a whole delay from 1 to N - 1 is in range. -/
theorem fracDelay_ofInt {b : Ring} (hmax : b.cap ≤ 2 ^ 24) {d : Nat} (h1 : 1 ≤ d) (hd : d ≤ b.cap - 1) :
    fracDelay b (ofInt d) = ofInt d := by
  have hfin : isFinite (ofInt d) = true := isFinite_ofInt (by omega)
  have htop : isFinite (ofInt ((b.cap : Int) - 1)) = true := isFinite_ofInt (by omega)
  have hnan := isNaN_of_isFinite hfin
  obtain ⟨hlo, hhi⟩ : inRange one (ofInt ((b.cap : Int) - 1)) (ofInt d) := by
    rw [inRange_iff_value isNaN_one (isNaN_of_isFinite htop), value_one, value_ofInt (by omega), value_ofInt (by omega)]
    exact ⟨hnan, by exact_mod_cast h1, by exact_mod_cast (by omega : (d : Int) ≤ (b.cap : Int) - 1)⟩
  rw [fracDelay, hnan, if_neg Bool.false_ne_true, clamp_of_inRange hlo hhi]

/-- R84: at a whole delay the fraction is +0.0. -/
theorem fracRead_ofInt {b : Ring} (hmax : b.cap ≤ 2 ^ 24) {d : Nat} (h1 : 1 ≤ d) (hd : d ≤ b.cap - 1) :
    fracRead b (ofInt d) = lerp (bufRead b d) (bufRead b (d + 1)) zero := by
  have hdelay := fracDelay_ofInt hmax h1 hd
  have hfin : isFinite (ofInt d) = true := isFinite_ofInt (by omega)
  have hfin' : isFinite (fracDelay b (ofInt d)) = true := by rw [hdelay, hfin]
  have hfloor : ⌊value (fracDelay b (ofInt d))⌋ = (d : Int) := by
    rw [hdelay, value_ofInt (by omega), Int.floor_intCast]
  rw [fracRead_eq hfin' hfloor, hdelay, sub_self_of_isFinite hfin]

/-! ## The delay-line commands on a bank that exists -/

section Steps

variable {s : State} {inst : InstNo} {u : Dl}

theorem exec_dlWr (h : s.dl[inst.toNat]? = some u) (ra : Reg) :
    exec (.dlWr ra inst) s =
      .next ((s.setDl inst { u with ring := bufWrite u.ring (s.freg ra) }).stickyNV [s.freg ra]) := by
  rw [exec, execDlWr, h]

theorem exec_dlRd (h : s.dl[inst.toNat]? = some u) (rd ra : Reg) :
    let y := fracRead u.ring (s.freg ra)
    exec (.dlRd rd ra inst) s = .next (s.result [s.freg ra, y] rd y) := by
  rw [exec, execDlRd, h]

end Steps

/-- A change of one bank, then StickyNV: STATUS and that bank are all that changes. -/
theorem OneBank.stickyNV_spec {u : UnitName} {n : Nat} {s s' : State} (h : OneBank u n s s') (hbus : busKept s s')
    (nv : List Word) : touchedOnly [u] (nvBits nv) s (s'.stickyNV nv) := by
  refine ⟨regsKept_of_eq ((stickyNV_d ..).trans h.d) ((stickyNV_written ..).trans h.written) _,
    by rw [stickyNV_status_bits, h.status], ?_, by simpa [busKept] using hbus⟩
  simpa only [banksKept, stickyNV_fs, stickyNV_bq, stickyNV_lp, stickyNV_hp, stickyNV_sc, stickyNV_dl, stickyNV_dc,
    stickyNV_li, stickyNV_ds, stickyNV_xo, stickyNV_md, stickyNV_nco, stickyNV_zc, stickyNV_env, stickyNV_gp]
    using h.units

/-! ## The statements -/

/-- Settles O49: the fraction of a whole delay is +0.0, so lerp32 adds a zero to the sample. -/
theorem wholeDelaysReadSamplesExactly : Obligations.WholeDelaysReadSamplesExactly := by
  intro s t rd ra inst u d hu _ hmax h1 hd hdly hdiff hexec
  have hread : t.reg rd = lerp (bufRead u.ring d) (bufRead u.ring (d + 1)) zero := by
    rw [exec_dlRd hu, hdly, fracRead_ofInt hmax h1 hd] at hexec
    cases hexec
    obtain ⟨⟨hreg, -⟩, -⟩ := result_spec s _ rd _
    exact hreg
  rw [hread]
  exact lerp_zero hdiff

/-- Settles O48: DL.WR is one BufWrite, DL.RD one FracRead. -/
theorem delayLineResults : Obligations.DelayLineResults := by
  intro s rd ra inst u hu x
  refine ⟨fun ⟨_, hwf, _⟩ => ?write, ⟨_, exec_dlRd hu rd ra, result_spec ..⟩⟩
  case write =>
    have hbank : OneBank .dl inst.toNat s (s.setDl inst { u with ring := bufWrite u.ring x }) := oneBank_setDl hu rfl
    refine ⟨_, { u with ring := bufWrite u.ring x }, exec_dlWr hu ra, hbank.stickyNV_spec ⟨rfl, rfl⟩ [x], ?_,
      bufWrite_cap .., bufWrite_w .., write_read_same hwf .., fun a ha => write_read_other hwf ha _⟩
    rw [stickyNV_dl, setDl_dl]
    exact replaced_set hu _

end Sys2Proof.Machine

/-! SUPPORT. The modulated delay without swing (44_distortion_rotary.md R245): what a zero depth and a unit gain leave
of their operands. The oscillator's phase (R246): a finite step wraps into [0, 1). -/

namespace Sys2Proof.Machine.F32

/-- R14: a product with 1.0 is the other operand; a NaN gives QNAN (R19). -/
theorem one_mul_eq_canon (x : Word) : mul one x = canon x := by
  cases hn : isNaN x
  case true => rw [mul_of_isNaN (.inr hn), canon, if_pos hn]
  rw [canon_of_not_isNaN hn]
  have hsign : (sign one != sign x) = sign x := Bool.false_xor _
  rcases isFinite_or_isInf hn with hf | hi
  · have hunits : units one = 2 ^ 149 := by decide +kernel
    rw [mul_of_isFinite (by decide) hf, hsign, hunits, Nat.mul_comm, round, units,
      roundMag_exact (isFinite_iff.1 hf).le (by positivity), pack_sign_magBits]
  · have hzero : isZero one = false := by decide
    rw [mul_of_isInf isNaN_one hn (.inr hi), hsign, hzero, isZero_of_isInf hi, if_neg (by simp), ← isInf_iff.1 hi,
      pack_sign_magBits]

/-- R14: a difference with a zero is the first operand's word; only a -0.0 can lose its sign. -/
theorem sub_isZero {x z : Word} (hx : isFinite x = true) (hz : isZero z = true) (hne : x ≠ negZero) : sub x z = x :=
  add_isZero hx (by rw [isZero_neg, hz]) hne

/-- A magnitude up to 1.0 leaves `1.0 - c` finite. -/
theorem isFinite_one_sub {c : Word} (h : inRange negOne one c) : isFinite (sub one c) = true := by
  have hneg : value negOne = -1 := by rw [show negOne = neg one by decide, value_neg isNaN_one, value_one]
  obtain ⟨-, hlo, hhi⟩ := (inRange_iff_value (by decide) isNaN_one).1 h
  rw [hneg] at hlo
  rw [value_one] at hhi
  refine isFinite_of_nearestEven (nearestEven_sub (by decide) (isFinite_of_inRange (by decide) (by decide) h)) ?_
  rw [value_one]
  exact abs_le.2 ⟨by norm_num; linarith, by norm_num; linarith⟩

end Sys2Proof.Machine.F32

namespace Sys2Proof.Machine

open F32

theorem isFinite_of_inTurn {p : Word} (h : inTurn p) : isFinite p = true :=
  isFinite_of_inRange (lo := zero) (hi := one) (by decide) (by decide) ⟨h.1, le_of_lt' h.2⟩

/-! ## The modulated delay (R243, R245) -/

section MicrophoneAngle

variable {u : Md} {phi : Word}

/-- R243: an angle that does not overflow has a cosine (log 23). -/
theorem micCos_inRange (h : isFinite (add phi u.off) = true) : inRange negOne one (micCos u phi) :=
  cos2pi_inRange (isFinite_of_inTurn (inTurn_fract h))

theorem isFinite_micCos (h : isFinite (add phi u.off) = true) : isFinite (micCos u phi) = true :=
  isFinite_of_inRange (by decide) (by decide) (micCos_inRange h)

/-- R245: without swing the delay is the base delay. -/
theorem dopplerDelay_of_isZero_swing (h : isFinite (add phi u.off) = true) (hbase : inRange one maxF u.base)
    (hswing : isZero u.swing = true) : dopplerDelay u phi = u.base := by
  have hne : u.base ≠ negZero := fun heq => by
    rw [heq] at hbase
    exact absurd hbase.1 (by decide)
  exact sub_isZero (isFinite_of_inRange (by decide) (by decide) hbase)
    (isZero_mul (isFinite_of_isZero hswing) (isFinite_micCos h) (.inl hswing)) hne

/-- R245: without amplitude modulation the gain is 1.0. -/
theorem amGain_of_isZero_am (h : isFinite (add phi u.off) = true) (ham : isZero u.am = true) : amGain u phi = one := by
  have hdepth : isFinite (mul half (sub one (micCos u phi))) = true :=
    isFinite_mul_unit (by decide) (isFinite_one_sub (micCos_inRange h))
  exact sub_isZero (by decide) (isZero_mul (isFinite_of_isZero ham) hdepth (.inl ham)) (by decide)

end MicrophoneAngle

/-- Settles O52: a zero swing leaves the base delay, a zero am the gain 1.0, and a product with 1.0 is the read. -/
theorem zeroSwingIsAStaticDelay : Obligations.ZeroSwingIsAStaticDelay := by
  intro s t rd ra inst u line hu hline hbase hswing hangle hexec
  have hread : t.reg rd = mul (amGain u (s.freg ra)) (fracRead line.ring u.base) := by
    rw [exec_mdStep hu hline, dopplerDelay_of_isZero_swing hangle hbase hswing] at hexec
    cases hexec
    obtain ⟨⟨hreg, -⟩, -⟩ := result_spec s _ rd _
    exact hreg
  refine ⟨hread, fun ham => ?_⟩
  have hgain := amGain_of_isZero_am hangle ham
  refine ⟨hgain, ?_⟩
  rw [hread, hgain, one_mul_eq_canon, fracRead_canon]

/-! ## The oscillator's phase (R244, R246) -/

/-- Dividing by 1.0 or more does not overflow. -/
theorem isFinite_div_of_one_le {x y : Word} (hx : isFinite x = true) (hy : isFinite y = true) (h1 : le one y = true) :
    isFinite (div x y) = true := by
  rw [le_iff_value isNaN_one (isNaN_of_isFinite hy), value_one] at h1
  have hz : isZero y = false := Bool.eq_false_iff.2 fun h0 => by linarith [isZero_iff_value.1 h0]
  refine isFinite_of_nearestEven (nearestEven_div hx hy hz) ?_
  rw [abs_div, abs_of_pos (by linarith : 0 < value y)]
  exact (div_le_self (abs_nonneg _) h1).trans (isFinite_iff_abs_value.1 hx)

/-- R17: a phase moved by any finite step wraps into [0, 1); even MAXF leaves room for the sum. -/
theorem inTurn_fract_add {p d : Word} (hp : inTurn p) (hd : isFinite d = true) : inTurn (fract (add p d)) := by
  have hfp := isFinite_of_inTurn hp
  obtain ⟨hp0, hp1⟩ := hp
  rw [le_iff_value isNaN_zero (isNaN_of_isFinite hfp), value_zero] at hp0
  rw [lt_iff_value (isNaN_of_isFinite hfp) isNaN_one, value_one] at hp1
  obtain ⟨hlo, hhi⟩ := abs_le.1 (isFinite_iff_abs_value.1 hd)
  norm_num at hlo hhi
  refine inTurn_fract ((nearestEven_add hfp hd).isFinite_eq_true (abs_lt.2 ⟨?_, ?_⟩))
  · norm_num; linarith
  · norm_num; linarith

/-- Settles O54: FS is at least 1.0, so a finite frequency moves the phase by a finite step. -/
theorem ncoPhaseStaysInTurn : Obligations.NcoPhaseStaysInTurn := by
  intro s t rd ra inst u u' hu hfs hph hexec hu' hf
  obtain ⟨hnco, -⟩ := ncoAndEnvStepResults s rd ra inst
  obtain ⟨t', hexec', ⟨⟨hreg, -⟩, -⟩, -, hbank, -⟩ := hnco u hu
  cases hexec.symm.trans hexec'
  cases hu'.symm.trans hbank
  have hstep := isFinite_div_of_one_le hf (isFinite_of_inRange (by decide) (by decide) hfs)
    (le_trans' (by decide) hfs.1)
  exact ⟨inTurn_fract_add hph hstep, hreg⟩

end Sys2Proof.Machine

/-! SUPPORT. The envelope and the pitch tracker over steps (45_octave.md): the direction of one one-pole step, the
gate's hang time (R273), and the range of the tracked frequency (R274). -/

namespace Sys2Proof.Machine

open F32

/-! ## One step of the recursion moves toward its input (R276) -/

section Direction

variable {y a x : Word}

/-- The three roundings of `y + a * (x - y)` between finite non-negative words: none overflows before the sum. -/
theorem onePole_roundings (hy : inRange zero maxF y) (ha : inRange zero one a) (hx : inRange zero maxF x) :
    ∃ d p, NearestEven (value x - value y) d ∧ NearestEven (value a * value d) p ∧
      NearestEven (value y + value p) (onePole y a x) := by
  obtain ⟨hfy, hy0⟩ := inRange_zero_maxF_iff.1 hy
  obtain ⟨hfx, hx0⟩ := inRange_zero_maxF_iff.1 hx
  obtain ⟨hfa, -, -⟩ := value_of_inRange_zero_one ha
  have hfd := isFinite_sub_of_nonneg hfx hfy hx0 hy0
  exact ⟨_, _, nearestEven_sub hfx hfy, nearestEven_mul hfa hfd, nearestEven_add hfy (isFinite_mul_unit ha hfd)⟩

theorem zero_le_value_of_nearestEven {q : ℚ} {w : Word} (h : NearestEven q w) (hq : 0 ≤ q) : 0 ≤ value w := by
  simpa using h.le_value (v := zero) (by decide) (by simpa using hq)

theorem value_le_zero_of_nearestEven {q : ℚ} {w : Word} (h : NearestEven q w) (hq : q ≤ 0) : value w ≤ 0 := by
  simpa using h.value_le (v := zero) (by decide) (by simpa using hq)

/-- Rounding is monotone, so an input at or above the state never lowers it. -/
theorem le_onePole_of_le (hy : inRange zero maxF y) (ha : inRange zero one a) (hx : inRange zero maxF x)
    (h : value y ≤ value x) : le y (onePole y a x) = true := by
  obtain ⟨d, p, hd, hp, hsum⟩ := onePole_roundings hy ha hx
  obtain ⟨hfy, -⟩ := inRange_zero_maxF_iff.1 hy
  obtain ⟨-, ha0, -⟩ := value_of_inRange_zero_one ha
  have hd0 := zero_le_value_of_nearestEven hd (sub_nonneg.2 h)
  have hp0 := zero_le_value_of_nearestEven hp (mul_nonneg ha0 hd0)
  exact (le_iff_value (isNaN_of_isFinite hfy) hsum.isNaN_eq_false).2
    (hsum.le_value hfy (le_add_of_nonneg_right hp0))

/-- Nor does an input at or below the state raise it. -/
theorem onePole_le_of_le (hy : inRange zero maxF y) (ha : inRange zero one a) (hx : inRange zero maxF x)
    (h : value x ≤ value y) : le (onePole y a x) y = true := by
  obtain ⟨d, p, hd, hp, hsum⟩ := onePole_roundings hy ha hx
  obtain ⟨hfy, -⟩ := inRange_zero_maxF_iff.1 hy
  obtain ⟨-, ha0, -⟩ := value_of_inRange_zero_one ha
  have hd0 := value_le_zero_of_nearestEven hd (sub_nonpos.2 h)
  have hp0 := value_le_zero_of_nearestEven hp (mul_nonpos_of_nonneg_of_nonpos ha0 hd0)
  exact (le_iff_value hsum.isNaN_eq_false (isNaN_of_isFinite hfy)).2
    (hsum.value_le hfy (add_le_of_nonpos_right hp0))

end Direction

/-- The magnitude of a finite word is finite and not negative. -/
theorem inRange_abs_of_isFinite {x : Word} (h : isFinite x = true) : inRange zero maxF (F32.abs x) := by
  rw [inRange_zero_maxF_iff, abs_of_not_isNaN (isNaN_of_isFinite h), isFinite_iff, magBits_and_mask]
  exact ⟨isFinite_iff.1 h, value_nonneg_of_sign_false (sign_and_mask x)⟩

/-- Settles O55: the direction of the one-pole step is that of the comparison that chooses attack or release. -/
theorem envelopeMovesTowardTheMagnitude : Obligations.EnvelopeMovesTowardTheMagnitude := by
  intro s t rd ra inst u hu hatt hrel hx hfe he0 hexec
  have hreg : t.reg rd = envelope u (s.freg ra) := by
    rw [exec_envStep hu] at hexec
    cases hexec
    obtain ⟨⟨hreg, -⟩, -⟩ := result_spec (s.setEnv inst _) _ rd (envelope u (s.freg ra))
    exact hreg
  have hne := isNaN_of_isFinite hfe
  have he : inRange zero maxF u.e := inRange_zero_maxF_iff.2 ⟨hfe, (nanOrNonneg_iff hne).1 (.inr he0)⟩
  have hm := inRange_abs_of_isFinite hx
  have hnm := isNaN_right_of_le hm.1
  rw [hreg, envelope]
  refine ⟨?nonneg, fun hlt => ?attack, fun hge => ?release⟩
  case nonneg =>
    have hk : inRange zero one (if lt u.e (F32.abs (s.freg ra)) then u.att else u.rel) := by
      split
      · exact hatt
      · exact hrel
    obtain hnan | hle := envelope_nanOrNonneg (x := s.freg ra) (.inr he0) hatt hrel
    · exact absurd hnan (by rw [envelope, onePole_isNaN_eq_false he hk hm]; decide)
    · exact hle
  case attack =>
    rw [if_pos hlt]
    exact le_onePole_of_le he hatt hm ((lt_iff_value hne hnm).1 hlt).le
  case release =>
    rw [hge, if_neg Bool.false_ne_true]
    exact onePole_le_of_le he hrel hm ((le_iff_value hnm hne).1 ((lt_false_iff hne hnm).1 hge))

/-! ## The gate's hang time (R273) -/

/-- R272: the gate is the first phase alone, and no phase writes its parameters. -/
theorem zcStep_gate (z : Zc) (fs x env : Word) :
    let z' := zcStep z fs x env
    z'.locked = (zcGate z env).locked ∧ z'.hang = (zcGate z env).hang ∧
      z'.thOn = z.thOn ∧ z'.thOff = z.thOff := by
  rw [zcStep_eq, zcGate_eq]
  exact ⟨rfl, rfl, rfl, rfl⟩

/-- Without `env > th_on` a locked gate outlasts as many steps with `env < th_off` as its hang counter holds, and an
unlocked one stays so. -/
theorem locked_foldl_zcStep (fs : Word) (later : List (Word × Word)) (z : Zc)
    (hon : ∀ p ∈ later, lt z.thOn p.2 = false) :
    (later.foldl (fun z p => zcStep z fs p.1 p.2) z).locked =
      (z.locked && decide (later.countP (fun p => lt p.2 z.thOff) ≤ z.hang)) := by
  induction later generalizing z with
  | nil => simp
  | cons p later ih =>
    obtain ⟨hlocked, hhang, hthOn, hthOff⟩ := zcStep_gate z fs p.1 p.2
    obtain ⟨hp, hlater⟩ := List.forall_mem_cons.1 hon
    rw [List.foldl_cons, ih _ (by rwa [hthOn]), hlocked, hhang, hthOff, zcGate_eq, List.countP_cons]
    cases hoff : lt p.2 z.thOff
    case false => simp [hp]
    case true =>
      cases hleft : z.hang
      case zero => simp [hp]
      case succ n => simp [hp]

/-- Settles O57: the step with `env > th_on` locks the gate and loads the hang counter. -/
theorem gateHoldsForItsHangTime : Obligations.GateHoldsForItsHangTime := by
  intro z fs x₀ env₀ later h0 hlater
  obtain ⟨hlocked, hhang, hthOn, hthOff⟩ := zcStep_gate z fs x₀ env₀
  rw [locked_foldl_zcStep fs later _ (by rwa [hthOn]), hlocked, hhang, hthOff, zcGate_eq]
  simp [h0]

/-! ## The tracked frequency (R274) -/

/-- R272 phase 2, the period as the integer that `f32` converts. -/
theorem natCast_zcCount_cnt (z : Zc) :
    ((zcCount z).cnt : Int) = if z.cnt < cntMax then (z.cnt : Int) + 1 else (z.cnt : Int) := by
  rw [zcCount_eq]
  by_cases h : z.cnt < cntMax <;> simp [h]

/-- R272: a smoothed move between non-negative words ends in [f_min, f_max]. -/
theorem zcMove_inRange_limits {z : Zc} {k target : Word} (hle : le z.fMin z.fMax = true) (hf : inRange zero maxF z.f)
    (hk : inRange zero one k) (ht : inRange zero maxF target) : inRange z.fMin z.fMax (zcMove z k target) :=
  clamp_inRange (onePole_isNaN_eq_false hf hk ht) hle

/-- R272 phase 4: so does the move toward a candidate of a legal period. -/
theorem zcTarget_inRange_limits {z : Zc} {fs : Word} {n : Nat} (hle : le z.fMin z.fMax = true) (hr : TrackerRanges z)
    (hf : inRange zero maxF z.f) (hfs : inRange 0x45FA0000 0x483B8000 fs) (h1 : 1 ≤ n) (hn : n ≤ cntMax) :
    inRange z.fMin z.fMax (zcTarget z (div fs (ofInt n))) := by
  obtain ⟨hc, hc0, hc1⟩ := candidate_bound hfs h1 hn
  exact zcMove_inRange_limits hle hf hr.smooth (zcJump_inRange hf hr.maxJump (zcFold_inRange z hc hc0 hc1))

/-- The bank a ZC.STEP leaves. -/
theorem zc_of_exec_zcStep {s t : State} {rd ra rb : Reg} {inst : InstNo} {u u' : Zc}
    (hu : s.zc[inst.toNat]? = some u) (hexec : exec (.zcStep rd ra rb inst) s = .next t)
    (hu' : t.zc[inst.toNat]? = some u') : u' = zcStep u s.fs (s.freg ra) (s.freg rb) := by
  rw [exec_zcStep hu] at hexec
  cases hexec
  obtain ⟨-, hbank, -⟩ := replaced_set hu (zcStep u s.fs (s.freg ra) (s.freg rb))
  rw [result_zc] at hu'
  exact Option.some.inj (hu'.symm.trans hbank)

/-- Settles O58: a locked step keeps the frequency or moves it toward a candidate, any other lets it drift; both moves
end in a clamp. -/
theorem trackedFrequencyStaysInRange : Obligations.TrackedFrequencyStaysInRange := by
  intro s t rd ra rb inst u u' _ hparams htrackers hu hle hexec hu' cross cand
  have hmem := List.mem_of_getElem? hu
  have hr := trackerRanges_of_paramsOk hparams hmem
  have htracker := htrackers u hmem
  obtain ⟨-, -, hf⟩ := id htracker
  obtain ⟨⟨hcnt, -⟩, hcnt1⟩ := zcCount_ok htracker
  have htarget := zcTarget_inRange_limits hle hr hf (fsRange_of_paramsOk hparams) hcnt1 hcnt
  have hcand : div s.fs (ofInt (zcCount u).cnt) = cand := by rw [natCast_zcCount_cnt]; rfl
  rw [hcand] at htarget
  have hlocked : u'.locked = (zcGate u (s.freg rb)).locked := by
    rw [zc_of_exec_zcStep hu hexec hu', zcStep_eq]
  have hestimate : u'.f = if u'.locked then
      if cross && le u.fMin cand && le cand u.fMax then zcTarget u cand else u.f
      else zcMove u u.drift u.fIdle := by
    rw [hlocked, zc_of_exec_zcStep hu hexec hu', zcStep_eq, hcand]
    rfl
  rw [hestimate]
  cases u'.locked
  case false => simpa using zcMove_inRange_limits hle hf hr.drift hr.fIdle
  case true =>
    by_cases happly : cross = true ∧ inRange u.fMin u.fMax cand
    · obtain ⟨hcross, hlo, hhi⟩ := id happly
      simpa [hcross, hlo, hhi] using htarget
    · have hkeep : cross = false ∨ ¬ inRange u.fMin u.fMax cand := by
        rw [← Bool.not_eq_true]; tauto
      rw [if_pos ⟨rfl, hkeep⟩, if_pos rfl, if_neg]
      simpa [and_assoc] using happly

end Sys2Proof.Machine

/-! SUPPORT. Commands and the host (60_exceptions.md R320 to R335): a command completes without a host access, a
rejection leaves every check of 30_encoding.md R105 as it was, and what power-on reset leaves in each bank. -/

namespace Sys2Proof.Machine

/-! ## Every command completes (R320) -/

/-- The outcome is a next state; the pending host events and the last word read are as in `s`. -/
def Completes (s : State) (r : Result) : Prop := ∃ t, r = .next t ∧ busKept s t

theorem completes_next {s t : State} (h : busKept s t) : Completes s (.next t) := ⟨t, rfl, h⟩

theorem busKept_paramWrite (s : State) (u : UnitName) (i idx : Nat) (x : Word) :
    busKept s (s.paramWrite u i idx x) := by
  unfold State.paramWrite
  split
  · exact ⟨rfl, rfl⟩
  · split
    · exact ⟨rfl, rfl⟩
    · simp [busKept]

theorem busKept_writeReg {s s' : State} (h : busKept s s') (rd : Reg) (v : Word) : busKept s (s'.writeReg rd v) := h

/-- The common end of the step commands keeps what the new bank keeps. -/
theorem busKept_result {s s' : State} (h : busKept s s') (nv : List Word) (rd : Reg) (y : Word) :
    busKept s (s'.result nv rd y) := by simpa [busKept] using h

section Commands

variable (s : State)

theorem completes_reject (c : Cause) : Completes s (.next (s.reject c)) := completes_next ⟨rfl, rfl⟩

theorem completes_writeReg (rd : Reg) (v : Word) : Completes s (.next (s.writeReg rd v)) := completes_next ⟨rfl, rfl⟩

theorem completes_result (nv : List Word) (rd : Reg) (y : Word) : Completes s (.next (s.result nv rd y)) :=
  completes_next (busKept_result ⟨rfl, rfl⟩ nv rd y)

/-! ### Control commands -/

theorem execRst_completes (u : UnitName) (n : InstNo) : Completes s (execRst u n s) := by
  unfold execRst
  split
  · exact completes_reject s _
  · split
    · exact completes_next ⟨rfl, rfl⟩
    · exact completes_next (by simp [busKept])

theorem execSetp_completes (ra : Reg) (u : UnitName) (n : InstNo) (idx : Idx) :
    Completes s (execSetp ra u n idx s) := by
  unfold execSetp
  split_ifs
  case neg => exact completes_next (busKept_paramWrite ..)
  all_goals exact completes_reject s _

theorem execCoef_completes (ra : Reg) (u : UnitName) (n : InstNo) : Completes s (execCoef ra u n s) := by
  unfold execCoef
  split
  · exact completes_reject s _
  · split
    · exact completes_reject s _
    · dsimp only
      split
      · exact completes_next ⟨rfl, rfl⟩
      · exact completes_next (by simpa [busKept] using busKept_paramWrite (s.setFlagIf _ pclampMask) u n.toNat _ _)

/-! ### Step commands -/

theorem execDlWr_completes (ra : Reg) (n : InstNo) : Completes s (execDlWr ra n s) := by
  unfold execDlWr
  split
  · exact completes_reject s _
  · exact completes_next (by simp [busKept])

theorem execXoStep_completes (rd ra : Reg) (n : InstNo) : Completes s (execXoStep rd ra n s) := by
  unfold execXoStep
  split
  · exact completes_reject s _
  · split
    · exact completes_reject s _
    · refine completes_next (busKept_writeReg (busKept_result ?_ ..) ..)
      exact ⟨rfl, rfl⟩

/-- A DL that `dlsel` names and the block does not have rejects the command too (log 13). -/
theorem execMdStep_completes (rd ra : Reg) (n : InstNo) : Completes s (execMdStep rd ra n s) := by
  unfold execMdStep
  split
  · exact completes_reject s _
  · split
    · exact completes_reject s _
    · exact completes_result ..

/-- Every command completes, by the operation its meaning ends in. -/
theorem exec_completes (i : Instr) : Completes s (exec i s) := by
  cases i with
  | nop => exact completes_next ⟨rfl, rfl⟩
  | rst u n => exact execRst_completes s u n
  | setp ra u n idx => exact execSetp_completes s ra u n idx
  | getp rd | gets rd =>
    simp only [exec, execGetp, execGets]
    split_ifs
    case neg =>
      split
      · exact completes_reject s _
      · exact completes_writeReg s rd _
    all_goals exact completes_reject s _
  | coef ra u n => exact execCoef_completes s ra u n
  | ldhi | orlo | mov | cvtifSym | cvtifAsym => exact completes_writeReg ..
  | fadd | fsub | fmul | clamp | lerp | satAtan | satTanh | sin2pi | cos2pi => exact completes_result ..
  | cvtfiSym | cvtfiAsym =>
    simp only [exec, execCvtfiSym, execCvtfiAsym]
    split
    · exact completes_result ..
    · exact completes_next (by simp [busKept])
  | dlWr ra n => exact execDlWr_completes s ra n
  | xoStep rd ra n => exact execXoStep_completes s rd ra n
  | mdStep rd ra n => exact execMdStep_completes s rd ra n
  | bqStep | lpStep | hpStep | scStep | dlRd | dcStep | liStep | dsStep | ncoStep | zcStep | envStep | gpStep =>
    simp only [exec, execBqStep, execLpStep, execHpStep, execScStep, execDlRd, execDcStep, execLiStep, execDsStep,
      execNcoStep, execZcStep, execEnvStep, execGpStep]
    split
    · exact completes_reject s _
    · refine completes_next (busKept_result ?_ ..)
      exact ⟨rfl, rfl⟩

end Commands

/-- Settles O10: a command completes, and the configuration is outside its reach. -/
theorem noCommandStopsTheBlock : Obligations.NoCommandStopsTheBlock := by
  intro i s
  obtain ⟨t, ht, hbus⟩ := exec_completes s i
  exact ⟨t, ht, hbus, (exec_staysInReach s i t ht).config⟩

/-! ## Rejection (R321, R322) -/

/-- The checks of R105 do not look at STATUS, the one thing a rejection changes. -/
theorem rejectCause_reject (s : State) (c : Cause) (i : Instr) : rejectCause (s.reject c) i = rejectCause s i := by
  cases i <;> rfl

/-- Settles O12: a command that fails a check is `State.reject` with the cause of that check. -/
theorem rejectionOnlyRecordsItsCause : Obligations.RejectionOnlyRecordsItsCause := by
  intro s i c hc
  have hexec := exec_answers s i
  rw [hc] at hexec
  exact ⟨s.reject c, hexec, reject_spec s c, rejectCause_reject s c⟩

/-! ## Power-on (R335, R352) -/

/-- The registers of a bank of a unit with one power-on value: `f` names its parameters or its state registers. -/
theorem map_bind_getElem?_replicate {α : Type} {n i : Nat} (h : i < n) (u : α) (f : α → Nat → Option Word)
    (l : List Nat) : l.map (fun idx => (List.replicate n u)[i]?.bind fun x => f x idx) = l.map (f u) :=
  List.map_congr_left fun idx _ => bind_getElem?_replicate h u (f · idx)

/-- The registers of a bank of a unit whose power-on value depends on the capacity. -/
theorem map_bind_getElem?_caps {α : Type} {caps : List Nat} {i cap : Nat} (h : caps[i]? = some cap) (g : Nat → α)
    (f : α → Nat → Option Word) (l : List Nat) :
    l.map (fun idx => (caps.map g)[i]?.bind fun x => f x idx) = l.map (f (g cap)) :=
  List.map_congr_left fun idx _ => by rw [List.getElem?_map, h]; rfl

/-- R76: outside ZC and GP every state register is zero. -/
theorem stateReg_powerOn (c : Config) {u : UnitName} (hzc : u ≠ .zc) (hgp : u ≠ .gp) {i : Nat}
    (hi : i < (powerOn c).count u) {idx : Nat} (hidx : idx < stateCount u) :
    (powerOn c).stateReg? u i idx = some 0 := by
  cases u
  case zc => exact absurd rfl hzc
  case gp => exact absurd rfl hgp
  case global | all | sc | md => cases hidx
  case dl =>
    obtain rfl : idx = 0 := Nat.lt_one_iff.1 hidx
    simp only [State.count, powerOn, List.length_map] at hi
    simp only [State.stateReg?, powerOn, List.getElem?_map, List.getElem?_eq_getElem hi]
    rfl
  all_goals
    simp only [State.stateReg?, powerOn]
    rw [bind_getElem?_replicate (by simpa [State.count, powerOn] using hi)]
    simp only [stateCount, stateTable, List.length_cons, List.length_nil] at hidx
    interval_cases idx
  all_goals rfl

/-- R65, R73: every slot of every buffer is +0.0. -/
theorem slot_powerOn (c : Config) {u : UnitName} {i a : Nat} {v : Word} (h : (powerOn c).slot? u i a = some v) :
    v = 0x00000000 := by
  have hread {α : Type} {caps : List Nat} {g : Nat → α} {ring : α → Ring}
      (hring : ∀ cap, ring (g cap) = powerOnRing cap)
      (hv : (caps.map g)[i]?.map (fun x => (ring x).buf.read a) = some v) : v = 0x00000000 := by
    simp only [List.getElem?_map, Option.map_map, Option.map_eq_some_iff, Function.comp_apply, hring] at hv
    obtain ⟨cap, -, hv⟩ := hv
    exact hv.symm
  rw [State.slot?] at h
  split_ifs at h
  · exact hread (g := powerOnDl) (fun _ => rfl) h
  · exact hread (g := powerOnGp) (fun _ => rfl) h

theorem isWritten_powerOn (c : Config) (r : Reg) : (powerOn c).isWritten r = false := by
  simp [isWritten_eq, powerOn]

/-- Log 15: a power cycle is power-on reset of the machine's own configuration; the events still to come stay. -/
theorem step_powerCycle {s : State} {rest : List BusEvent} (h : s.bus = .powerCycle :: rest) :
    step s = .next { powerOn s.config with bus := rest } := by
  rw [step, busStep, h]
  rfl

/-- Settles O11: a bank holds its unit's power-on value, whose registers are the ones listed. -/
theorem powerOnValues : Obligations.PowerOnValues := by
  refine ⟨fun c => ⟨powerOn_config c, rfl, isWritten_powerOn c, rfl, ?bq, ?lp, ?hp, ?sc, ?dc, ?ds, ?xo, ?md, ?nco, ?zc,
    ?env, ?gp, ?zcState, ?gpState, fun u hzc hgp i hi idx hidx => stateReg_powerOn c hzc hgp hi hidx,
    fun u i a v h => slot_powerOn c h⟩, fun s rest h => step_powerCycle h⟩
  case bq => exact fun i hi => map_bind_getElem?_replicate hi powerOnBq paramBq _
  case lp => exact fun i hi => bind_getElem?_replicate hi powerOnLp (paramLp · 0)
  case hp => exact fun i hi => bind_getElem?_replicate hi powerOnHp (paramHp · 0)
  case sc => exact fun i hi => map_bind_getElem?_replicate hi powerOnSc paramSc _
  case dc => exact fun i hi => bind_getElem?_replicate hi powerOnDc (paramDc · 0)
  case ds => exact fun i hi => map_bind_getElem?_replicate hi powerOnDs paramDs _
  case xo => exact fun i hi => bind_getElem?_replicate hi powerOnXo (paramXo · 0)
  case md => exact fun i hi => map_bind_getElem?_replicate hi powerOnMd paramMd _
  case nco => exact fun i hi => bind_getElem?_replicate hi powerOnNco (paramNco · 0)
  case zc => exact fun i hi => map_bind_getElem?_replicate hi powerOnZc paramZc _
  case env => exact fun i hi => map_bind_getElem?_replicate hi powerOnEnv paramEnv _
  case gp => exact fun i cap hcap => map_bind_getElem?_caps hcap powerOnGp paramGp _
  case zcState => exact fun i hi => map_bind_getElem?_replicate hi powerOnZc stateRegZc _
  case gpState =>
    exact fun i hi => map_bind_getElem?_caps (List.getElem?_eq_getElem hi) powerOnGp stateRegGp _

end Sys2Proof.Machine

/-! SUPPORT. RST (40_control.md R141): what a reset leaves in the state registers and the buffer of a bank, and
`rst all` as the reset of every bank (70_reset_and_hazards.md R350, R351). -/

namespace Sys2Proof.Machine

/-! ## RST as a command -/

theorem exec_rst {s : State} {u : UnitName} {inst : InstNo} (hu : u ≠ .all) (hi : inst.toNat < s.count u) :
    exec (.rst u inst) s = .next (s.resetInstance u inst.toNat) := by
  rw [exec, execRst, if_neg (Nat.not_le.2 hi), if_neg hu]

theorem exec_rst_all (s : State) : exec (.rst .all 0) s = .next s.resetAll := rfl

/-! ## What a reset leaves (R350) -/

/-- A bank changed in place is the image of the old one. -/
theorem bind_getElem?_modify_same {α β : Type} {l : List α} {i : Nat} (hi : i < l.length) (g : α → α)
    (f : α → Option β) : (l.modify i g)[i]?.bind f = f (g l[i]) := by
  rw [getElem?_modify_ite, if_pos rfl, List.getElem?_eq_getElem hi]
  rfl

/-- R76, R350: every state register of a reset bank holds its reset value. -/
theorem stateReg_resetInstance {s : State} {u : UnitName} {i idx : Nat} (hi : i < s.count u)
    (hidx : idx < stateCount u) : (s.resetInstance u i).stateReg? u i idx = some (resetWord s u i idx) := by
  cases u
  case global | all | sc | md => cases hidx
  all_goals
    refine (bind_getElem?_modify_same hi ..).trans ?_
    simp only [stateCount, stateTable, List.length_cons, List.length_nil] at hidx
    interval_cases idx
  any_goals rfl
  -- the one reset value that is a parameter: ZC.f takes f_idle
  have hidle : s.param? .zc i 9 = some (s.zc[i]'hi).fIdle := by
    rw [State.param?, List.getElem?_eq_getElem hi]
    rfl
  rw [resetWord, hidle]
  rfl

/-- R65, R73, R350: every slot of a reset bank's buffer is +0.0. -/
theorem slot_resetInstance {s : State} {u : UnitName} {i a : Nat} {v : Word}
    (h : (s.resetInstance u i).slot? u i a = some v) : v = 0x00000000 := by
  have hread {α : Type} {l : List α} {g : α → α} {ring : α → Ring}
      (hring : ∀ x, ring (g x) = resetRing (ring x))
      (hv : (l.modify i g)[i]?.map (fun x => (ring x).buf.read a) = some v) : v = 0x00000000 := by
    simp only [getElem?_modify_ite, if_true, Option.map_map, Option.map_eq_some_iff, Function.comp_apply, hring] at hv
    obtain ⟨x, -, hv⟩ := hv
    exact hv.symm
  cases u
  case dl => exact hread (g := resetDl) (ring := Dl.ring) (fun _ => rfl) h
  case gp => exact hread (g := resetGp) (ring := Gp.ring) (fun _ => rfl) h
  all_goals cases h

/-! ## `rst all` (R351) -/

/-- A list with every entry reset reads at each index as the list with that entry reset. -/
theorem getElem?_map_eq_modify {α : Type} (l : List α) (f : α → α) (j : Nat) :
    (l.map f)[j]? = (l.modify j f)[j]? := by
  rw [List.getElem?_map, getElem?_modify_ite, if_pos rfl]

/-- R351: after `rst all` every bank reads as after its own RST. -/
theorem bankState_resetAll (s : State) (u : UnitName) (j : Nat) :
    BankStateKept u j (s.resetInstance u j) s.resetAll := by
  constructor
  · intro idx
    cases u
    case global | all => rfl
    all_goals exact congrArg (Option.bind · _) (getElem?_map_eq_modify ..)
  · intro a
    cases u
    case dl | gp => exact congrArg (Option.map _) (getElem?_map_eq_modify ..)
    all_goals rfl

theorem resetAll_resetAll (s : State) : s.resetAll.resetAll = s.resetAll := by
  simp only [State.resetAll, List.map_map]
  rfl

/-! ## The statements -/

/-- Settles O25: the frame is that of one bank, the values are the reset ones. -/
theorem rstResetsOneInstance : Obligations.RstResetsOneInstance := by
  intro s u inst hu hi
  have hkept := paramsKept_resetInstance s u inst.toNat
  refine ⟨s.resetInstance u inst.toNat, exec_rst hu hi, resetInstance_frame .., resetInstance_fs .., hkept.config,
    hkept.param u, fun j hj => ?_, fun idx hidx => stateReg_resetInstance hi hidx, fun a v => slot_resetInstance⟩
  have hother := bankStateKept_resetInstance_other s u hj
  exact ⟨hkept.param u j, hother.reg, hother.slot⟩

/-- Settles O26: each bank reads as after its own RST, and a second reset finds the reset values. -/
theorem rstAllResetsEveryInstance : Obligations.RstAllResetsEveryInstance := by
  intro s
  have hkept := paramsKept_resetAll s
  refine ⟨s.resetAll, exec_rst_all s, regsKept_of_eq rfl rfl _, rfl, rfl, ⟨rfl, rfl⟩, hkept.config, hkept.param,
    fun u j hj idx hidx => ?reg, fun u j a v hv => ?slot, ?again⟩
  case reg =>
    rw [(bankState_resetAll s u j).reg]
    exact stateReg_resetInstance hj hidx
  case slot =>
    rw [(bankState_resetAll s u j).slot] at hv
    exact slot_resetInstance hv
  case again => rw [exec_rst_all, resetAll_resetAll]

end Sys2Proof.Machine

/-! SUPPORT. Silence (70_reset_and_hazards.md R354): the operations keep zeros, since every parameter is finite
(10_state.md R41), and so does every step command that makes audio. -/

namespace Sys2Proof.Machine.F32

/-! ## Operations on zeros (R14, R17, R20) -/

theorem isZero_add {x y : Word} (hx : isZero x = true) (hy : isZero y = true) : isZero (add x y) = true := by
  rw [add_of_isZero hx hy]
  split <;> rfl

theorem isZero_sub {x y : Word} (hx : isZero x = true) (hy : isZero y = true) : isZero (sub x y) = true :=
  isZero_add hx (by rw [isZero_neg, hy])

/-- A finite word times a zero. -/
theorem isZero_mul_right {k x : Word} (hk : isFinite k = true) (hx : isZero x = true) : isZero (mul k x) = true :=
  isZero_mul hk (isFinite_of_isZero hx) (.inr hx)

/-- A zero over a positive word: an infinity divides it too. -/
theorem isZero_div_of_pos {x y : Word} (hx : isZero x = true) (hy : lt zero y = true) : isZero (div x y) = true := by
  obtain ⟨-, hn, -⟩ := lt_iff.1 hy
  rcases isFinite_or_isInf hn with hf | hi
  · rw [lt_iff_value isNaN_zero hn, value_zero] at hy
    exact isZero_div hx hf (Bool.eq_false_iff.2 fun h0 => hy.ne' (isZero_iff_value.1 h0))
  · rw [div_of_isInf_right (isFinite_of_isZero hx) hi, isZero_pack_zero]

theorem isZero_abs {x : Word} (hx : isZero x = true) : isZero (abs x) = true := by
  rw [abs_of_not_isNaN (isNaN_of_isFinite (isFinite_of_isZero hx)), isZero_iff, magBits_and_mask, isZero_iff.1 hx]

theorem isZero_lerp {a b t : Word} (ha : isZero a = true) (hb : isZero b = true) (ht : isFinite t = true) :
    isZero (lerp a b t) = true :=
  isZero_add ha (isZero_mul_right ht (isZero_sub hb ha))

/-- R20: ATAN of a zero is the start of its sequence. -/
theorem isZero_atan {x : Word} (hx : isZero x = true) : isZero (atan x) = true := by
  have hn := isNaN_of_isFinite (isFinite_of_isZero hx)
  unfold atan
  cases hs : sign x
  · rw [oddClimb_of_sign_false _ hn hs, isZero_iff.1 hx]
    rfl
  · rw [oddClimb_of_sign_true _ hn hs, isZero_iff.1 hx, isZero_neg]
    rfl

/-- `1.0 - d` overflows for no finite `d`: even at MAXF the sum rounds back. -/
theorem isFinite_one_sub_of_isFinite {d : Word} (hd : isFinite d = true) : isFinite (sub one d) = true := by
  refine (nearestEven_sub (by decide) hd).isFinite_eq_true ?_
  obtain ⟨hlo, hhi⟩ := abs_le.1 (isFinite_iff_abs_value.1 hd)
  rw [value_one]
  norm_num at hlo hhi ⊢
  exact abs_lt.2 ⟨by linarith, by linarith⟩

end Sys2Proof.Machine.F32

namespace Sys2Proof.Machine

open F32

/-! ## Legal parameters are finite (R41) -/

theorem isFinite_classRange {s : State} (hs : ShapeOk s) (i : Nat) (c : ParamClass) :
    isFinite (s.classRange i c).1 = true ∧ isFinite (s.classRange i c).2 = true := by
  cases c
  case idxdl =>
    obtain ⟨-, -, -, -, ⟨-, hn⟩, -⟩ := hs
    simp only [State.config, List.length_map] at hn
    exact ⟨rfl, isFinite_ofInt (by omega)⟩
  case glen =>
    refine ⟨rfl, isFinite_ofInt ?_⟩
    cases hu : s.gp[i]? with
    | none => decide
    | some u =>
      obtain ⟨-, hcap⟩ := gpCap_of_shapeOk hs (List.mem_of_getElem? hu)
      simp only [Option.map_some, Option.getD_some]
      omega
  case fin => exact ⟨isFinite_neg rfl, rfl⟩
  all_goals exact ⟨rfl, rfl⟩

theorem isFinite_param {s : State} (hs : ShapeOk s) (hp : ParamsOk s) {u : UnitName} {i idx : Nat} {v : Word}
    (hv : s.param? u i idx = some v) : isFinite v = true := by
  obtain ⟨hu, hi⟩ := count_of_param hv
  have hidx : idx < paramCount u := by
    by_contra hge
    have hall : u ≠ .all := by rintro rfl; cases hv
    rw [(param_eq_none_iff hall hi idx).2 (Nat.le_of_not_lt hge)] at hv
    cases hv
  obtain ⟨v', p, hv', -, hrange, -⟩ := paramOkAt_iff.1 (hp u hu i hi idx hidx)
  cases hv.symm.trans hv'
  obtain ⟨hlo, hhi⟩ := isFinite_classRange hs i p.2
  exact isFinite_of_inRange hlo hhi hrange

/-- R8: the capacity of an admitted DL buffer. -/
theorem dlCap_of_shapeOk {s : State} (h : ShapeOk s) {u : Dl} (hu : u ∈ s.dl) :
    2 ≤ u.ring.cap ∧ u.ring.cap ≤ 2 ^ 24 := by
  obtain ⟨-, -, -, -, -, -, -, -, -, -, -, -, -, -, hdl, -⟩ := h
  exact hdl _ (List.mem_map_of_mem hu)

/-! ## The arithmetic of the units on zeros -/

theorem isZero_onePole {y a x : Word} (hy : isZero y = true) (ha : isFinite a = true) (hx : isZero x = true) :
    isZero (onePole y a x) = true :=
  isZero_lerp hy hx ha

theorem isZero_atanShaper {x : Word} (hx : isZero x = true) : isZero (atanShaper x) = true :=
  isZero_mul_right (by decide) (isZero_atan hx)

theorem isZero_softClip {x : Word} (hx : isZero x = true) : isZero (softClip x) = true := by
  rw [softClip, add_isZero (by decide) (isZero_abs hx) (by decide)]
  exact isZero_div_of_pos hx (by decide)

theorem isZero_envelope {u : Env} {x : Word} (he : isZero u.e = true) (hatt : isFinite u.att = true)
    (hrel : isFinite u.rel = true) (hx : isZero x = true) : isZero (envelope u x) = true := by
  refine isZero_onePole he ?_ (isZero_abs hx)
  split
  · exact hatt
  · exact hrel

/-- R84: the fraction of a delay is finite, so a read of a silent buffer is a zero at any delay. -/
theorem isZero_fracRead {b : Ring} (hb : RingSilent b) (hcap : 2 ≤ b.cap) (hmax : b.cap ≤ 2 ^ 24) (dly : Word) :
    isZero (fracRead b dly) = true := by
  obtain ⟨hfin, hlo, hhi⟩ := floor_fracDelay_bounds hcap hmax dly
  obtain ⟨k, hk⟩ := Int.eq_ofNat_of_zero_le (zero_le_one.trans hlo)
  obtain ⟨hfrac, -⟩ := sub_ofInt_floor hfin (Int.floor_nonneg.1 (zero_le_one.trans hlo)) (by omega)
  rw [hk] at hfrac
  rw [fracRead_eq hfin hk]
  exact isZero_lerp (bufRead_silent hb _) (bufRead_silent hb _) hfrac

theorem isFinite_hann {p : Word} (hp : inTurn p) : isFinite (hann p) = true :=
  isFinite_mul_unit (by decide) (isFinite_one_sub (cos2pi_inRange (isFinite_of_inTurn hp)))

/-- R301: the weighted sum of four zeros, normalized only where the weights do not vanish. -/
theorem isZero_grainMix {u : Gp} {b : Ring} (hb : RingSilent b) (hcap : 2 ≤ b.cap) (hmax : b.cap ≤ 2 ^ 24)
    (h0 : inTurn u.p0) (h1 : inTurn u.p1) (h2 : inTurn u.p2) (h3 : inTurn u.p3) : isZero (grainMix u b) = true := by
  have hgrain {p : Word} (hp : inTurn p) : isZero (mul (hann p) (fracRead b (add one (mul p u.glen)))) = true :=
    isZero_mul_right (isFinite_hann hp) (isZero_fracRead hb hcap hmax _)
  rw [grainMix_eq]
  dsimp only
  split
  · rename_i hden
    exact isZero_div_of_pos
      (isZero_add (isZero_add (isZero_add (isZero_add rfl (hgrain h0)) (hgrain h1)) (hgrain h2)) (hgrain h3)) hden
  · rfl

/-- R196: five products of a coefficient with a zero. -/
theorem isZero_biquad {u : Bq} {x : Word} (hk : ∀ idx v, paramBq u idx = some v → isFinite v = true)
    (hx : isZero x = true) (hx1 : isZero u.x1 = true) (hx2 : isZero u.x2 = true) (hy1 : isZero u.y1 = true)
    (hy2 : isZero u.y2 = true) : isZero (biquad u x) = true := by
  have h0 := isZero_mul_right (hk 0 u.b0 rfl) hx
  have h1 := isZero_mul_right (hk 1 u.b1 rfl) hx1
  have h2 := isZero_mul_right (hk 2 u.b2 rfl) hx2
  have h3 := isZero_mul_right (hk 3 u.a1 rfl) hy1
  have h4 := isZero_mul_right (hk 4 u.a2 rfl) hy2
  exact isZero_sub (isZero_sub (isZero_add (isZero_add h0 h1) h2) h3) h4

/-- R243: with an angle that does not overflow the AM gain is finite. -/
theorem isFinite_amGain {u : Md} {phi : Word} (h : isFinite (add phi u.off) = true)
    (ham : inRange zero one u.am) : isFinite (amGain u phi) = true :=
  isFinite_one_sub_of_isFinite
    (isFinite_mul_unit ham (isFinite_mul_unit (by decide) (isFinite_one_sub (micCos_inRange h))))

/-- R17, log 23: an angle that overflows has no cosine, and the gain is QNAN. -/
theorem amGain_of_not_isFinite {u : Md} {phi : Word} (h : isFinite (add phi u.off) = false) : amGain u phi = qnan := by
  rw [amGain, micCos, fract_of_not_isFinite h, cos2pi_of_not_isFinite (.inl isNaN_qnan),
    sub_of_isNaN (.inr isNaN_qnan), mul_isNaN_right isNaN_qnan, mul_isNaN_right isNaN_qnan,
    sub_of_isNaN (.inr isNaN_qnan)]

/-! ## The step commands on silent banks -/

theorem freg_of_isFinite {s : State} {r : Reg} (h : isFinite (s.reg r) = true) : s.freg r = s.reg r :=
  canon_of_not_isNaN (isNaN_of_isFinite h)

theorem reg_result (s : State) (nv : List Word) (rd : Reg) (y : Word) : (s.result nv rd y).reg rd = y :=
  reg_writeReg_same ..

/-- A step command that puts the bank `v'` in its place and ends in the result `y` leaves what `y` and `v'` are. -/
theorem reg_and_bank_of_result {α : Type} (bank : State → List α) {i : Instr} {n : Nat} {s s' t : State} {v v' : α}
    {nv : List Word} {rd : Reg} {y : Word} {P : α → Prop} (hstep : exec i s = .next (s'.result nv rd y))
    (hbank : bank (s'.result nv rd y) = (bank s).set n v') (hv : (bank s)[n]? = some v) (hexec : exec i s = .next t)
    (hy : isZero y = true) (hP : P v') : isZero (t.reg rd) = true ∧ ∀ u', (bank t)[n]? = some u' → P u' := by
  cases hstep.symm.trans hexec
  obtain ⟨-, hnew, -⟩ := replaced_set hv v'
  rw [reg_result, hbank, hnew]
  exact ⟨hy, fun u' hu' => Option.some.inj hu' ▸ hP⟩

/-- R243, R354: over a silent line MD gives a zero wherever its angle does not overflow (log 23). -/
theorem mdStep_silent {s t : State} {rd ra : Reg} {inst : InstNo} {u : Md} {line : Dl} (hs : ShapeOk s)
    (hp : ParamsOk s) (hu : s.md[inst.toNat]? = some u) (hline : s.dl[mdSelect u]? = some line)
    (hsilent : RingSilent line.ring) (hphi : isFinite (s.reg ra) = true)
    (hexec : exec (.mdStep rd ra inst) s = .next t) :
    t.dl = s.dl ∧ (isFinite (add (s.reg ra) u.off) = true → isZero (t.reg rd) = true) ∧
      (isFinite (add (s.reg ra) u.off) = false → t.reg rd = qnan) := by
  rw [exec_mdStep hu hline, freg_of_isFinite hphi] at hexec
  cases hexec
  rw [reg_result, result_dl]
  refine ⟨rfl, fun hangle => ?_, fun hangle => ?_⟩
  · have ham : s.param? .md inst.toNat 2 = some u.am := by rw [State.param?, hu]; rfl
    obtain ⟨hrange, -⟩ := paramOk_of_paramsOk hp ham rfl
    obtain ⟨hcap, hmax⟩ := dlCap_of_shapeOk hs (List.mem_of_getElem? hline)
    exact isZero_mul_right (isFinite_amGain hangle hrange) (isZero_fracRead hsilent hcap hmax _)
  · rw [amGain_of_not_isFinite hangle, mul_isNaN_left isNaN_qnan]

/-- Settles O60: every output and every new state value is a sum of products of a finite word with a zero. -/
theorem filtersStaySilent : Obligations.FiltersStaySilent := by
  refine ⟨fun s t rd ra rb inst hs hp hra => ?_, fun _ _ _ _ _ _ _ => mdStep_silent⟩
  have hx : isZero (s.freg ra) = true := by rwa [freg_of_isFinite (isFinite_of_isZero hra)]
  have hfin {α : Type} {l : List α} {f : α → Option Word} {u : α} {v : Word} (unit : UnitName) (idx : Nat)
      (hparam : s.param? unit inst.toNat idx = l[inst.toNat]?.bind f) (hu : l[inst.toNat]? = some u)
      (hv : f u = some v) : isFinite v = true :=
    isFinite_param hs hp (hparam.trans (Option.bind_eq_some_iff.2 ⟨u, hu, hv⟩))
  refine ⟨fun u hu hx1 hx2 hy1 hy2 hexec => ?bq, fun u hu hy hexec => ?lp, fun u hu hlp hexec => ?hp,
    fun u hu hexec => ?sc, fun u hu hx1 hy1 hexec => ?dc, fun u hu hprev hfrac hexec => ?li,
    fun u hu hlp hexec => ?ds, fun u hu hlp hrd hexec => ?xo, fun u hu he hexec => ?env,
    fun u hu ⟨_, hwf, _⟩ hsilent => ⟨fun hexec => ?dlRd, fun hexec => ?dlWr⟩,
    fun u hu ⟨_, hwf, _⟩ hsilent h0 h1 h2 h3 hexec => ?gp⟩
  case bq =>
    have hacc := isZero_biquad (fun idx _ hv => hfin .bq idx rfl hu hv) hx hx1 hx2 hy1 hy2
    exact reg_and_bank_of_result State.bq (exec_bqStep hu rd ra) (result_bq ..) hu hexec hacc ⟨hx, hx1, hacc, hy1⟩
  case lp =>
    have hout := isZero_onePole hy (hfin .lp 0 rfl hu rfl) hx
    exact reg_and_bank_of_result State.lp (exec_lpStep hu rd ra) (result_lp ..) hu hexec hout hout
  case hp =>
    have hlow := isZero_onePole hlp (hfin .hp 0 rfl hu rfl) hx
    exact reg_and_bank_of_result State.hp (exec_hpStep hu rd ra) (result_hp ..) hu hexec (isZero_sub hx hlow) hlow
  case sc =>
    have hdriven := isZero_mul (isFinite_of_isZero hx) (hfin .sc 0 rfl hu rfl) (.inl hx)
    cases (exec_scStep hu rd ra).symm.trans hexec
    rw [reg_result]
    exact isZero_lerp hx (isZero_softClip hdriven) (hfin .sc 1 rfl hu rfl)
  case dc =>
    have hout := isZero_add (isZero_sub hx hx1) (isZero_mul_right (hfin .dc 0 rfl hu rfl) hy1)
    exact reg_and_bank_of_result State.dc (exec_dcStep hu rd ra) (result_dc ..) hu hexec hout ⟨hx, hout⟩
  case li =>
    have hout := isZero_lerp hprev hx ((freg_of_isFinite hfrac).symm ▸ hfrac)
    exact reg_and_bank_of_result State.li (exec_liStep hu rd ra rb) (result_li ..) hu hexec hout hx
  case ds =>
    have hshaped := isZero_atanShaper
      (isZero_mul_right (hfin .ds 1 rfl hu rfl) (isZero_mul_right (hfin .ds 0 rfl hu rfl) hx))
    have hlow := isZero_onePole hlp (hfin .ds 2 rfl hu rfl) hshaped
    exact reg_and_bank_of_result State.ds (exec_dsStep hu rd ra) (result_ds ..) hu hexec (isZero_sub hshaped hlow) hlow
  case xo =>
    have hlow := isZero_onePole hlp (hfin .xo 0 rfl hu rfl) hx
    obtain ⟨-, hxo⟩ := dsAndXoStepResults s rd ra inst
    obtain ⟨t', hexec', ⟨hlo, -⟩, ⟨hhi, -⟩, -, -, -, -, -, hbank, -⟩ := hxo u hu hrd
    cases hexec.symm.trans hexec'
    rw [hlo, hhi, hbank]
    exact ⟨hlow, isZero_sub hx hlow, fun u' hu' => Option.some.inj hu' ▸ hlow⟩
  case env =>
    have hout := isZero_envelope he (hfin .env 0 rfl hu rfl) (hfin .env 1 rfl hu rfl) hx
    exact reg_and_bank_of_result State.env (exec_envStep hu rd ra) (result_env ..) hu hexec hout hout
  case dlRd =>
    obtain ⟨hcap, hmax⟩ := dlCap_of_shapeOk hs (List.mem_of_getElem? hu)
    cases (exec_dlRd hu rd ra).symm.trans hexec
    rw [reg_result, result_dl]
    exact ⟨isZero_fracRead hsilent hcap hmax _, rfl⟩
  case dlWr =>
    cases (exec_dlWr hu ra).symm.trans hexec
    obtain ⟨-, hnew, -⟩ := replaced_set hu { u with ring := bufWrite u.ring (s.freg ra) }
    rw [stickyNV_dl, setDl_dl, hnew]
    exact fun u' hu' => Option.some.inj hu' ▸ bufWrite_silent hwf hsilent hx
  case gp =>
    obtain ⟨hcap, hmax⟩ := gpCap_of_shapeOk hs (List.mem_of_getElem? hu)
    have hring := bufWrite_silent hwf hsilent hx
    have hout := isZero_grainMix hring (by rw [bufWrite_cap]; omega) hmax h0 h1 h2 h3
    exact reg_and_bank_of_result State.gp (exec_gpStep hu rd ra) (result_gp ..) hu hexec hout hring

end Sys2Proof.Machine
